-- ==== Sys2Proof/Word.lean ====
section
/-! DEFINITION. The word types of QTP and the small closed sets of names its registers and encodings use:
the wheels and their pins, the PID axes, the results of a sample, the command errors, the forms of an instruction word. -/

namespace Sys2Proof

/-- A register value: every register of the window is 32 bits wide (R61). -/
abbrev Word := BitVec 32

/-- One byte lane of the host's data bus (R62). -/
abbrev Byte := BitVec 8

/-- The offset of a host access inside the 4096-byte window, 12 bits (R60). -/
abbrev Offset := BitVec 12

/-- The two wheels (R6, NUM_WHEELS fixed at 2): wheel 0 is the left one, wheel 1 the right one. -/
inductive Wheel where
  | left
  | right
deriving DecidableEq, Repr

/-- One value per wheel: the spec's index form `X[w]`. -/
structure PerWheel (α : Type) where
  left : α
  right : α
deriving DecidableEq, Repr, Inhabited

/-- `R(X[w])`. -/
def PerWheel.get {α : Type} (x : PerWheel α) : Wheel → α
  | .left => x.left
  | .right => x.right

/-- `R(X[w]) <- v`. -/
def PerWheel.set {α : Type} (x : PerWheel α) (w : Wheel) (v : α) : PerWheel α :=
  match w with
  | .left => { x with left := v }
  | .right => { x with right := v }

/-- The two channel levels of one wheel's encoder, `enc[w].c1` and `enc[w].c2` (R8). -/
structure Encoder where
  c1 : Bool
  c2 : Bool
deriving DecidableEq, Repr, Inhabited

/-- The four encoder pin inputs at one event (R8, R9): a draw, no state of the block (R22). -/
abbrev Pins := PerWheel Encoder

/-- The five PID axes and what each controls (R82, R190). Axis 4, the line-following one, is optional. -/
inductive Axis where
  | leftSpeed
  | rightSpeed
  | leftPosition
  | rightPosition
  | line
deriving DecidableEq, Repr

/-- The result of one sample of a wheel, an entry of the transition table (R130): 0, +1, −1 or ERROR. -/
inductive SampleResult where
  | zero
  | plusOne
  | minusOne
  | error
deriving DecidableEq, Repr

/-- The command errors (R221): what a CMD write can fail with. -/
inductive CmdError where
  | rsvdBits
  | illegalOp
  | badSel
deriving DecidableEq, Repr

/-- The eight assigned operation codes of a command word (R85). -/
inductive CmdOp where
  | nop
  | qdSample
  | qdSampleAll
  | qdReset
  | tachTick
  | tachCompute
  | pidUpdate
  | pidReset
deriving DecidableEq, Repr

/-- The two forms of an instruction (R80). Form CMD is a 32-bit command word. Form MMIO is a host access to an offset,
a read or a write, and a write carries 32 bits of data. -/
inductive InstrWord where
  | cmd (word : Word)
  | mmioRead (offset : Offset)
  | mmioWrite (offset : Offset) (data : Word)
deriving DecidableEq, Repr

end Sys2Proof
end

