-- ==== Sys2Proof/Config.lean ====
section
/-! DEFINITION. What one build of QTP fixes: the parameters of R6. The fixed ones are constants; the open ones
(NUM_PID_AXES, QD_SIGN, QTP_BASE) are the fields of `Params`, the configuration of one QTP (log entry 1). -/

namespace Sys2Proof

/-- `NUM_PID_AXES`: 4 or 5 (R6, R39). -/
inductive NumPidAxes where
  | four
  | five
deriving DecidableEq, Repr

/-- The number itself, as PARAMS reports it (R27). -/
def NumPidAxes.count : NumPidAxes → Nat
  | .four => 4
  | .five => 5

/-- `QD_SIGN`: +1 or −1, which rotation direction counts +1 (R6, R131). -/
inductive QdSign where
  | plus
  | minus
deriving DecidableEq, Repr

/-- The open parameters of R6, fixed for one QTP.
`basePage` says where the window lies; a base that is not 4 KiB aligned cannot be written down. -/
structure Params where
  numPidAxes : NumPidAxes
  qdSign : QdSign
  basePage : Nat
deriving DecidableEq, Repr

/-- `QTP_BASE`, the window's base address in the host's address space: any 4 KiB-aligned address (R6, R60). -/
def Params.qtpBase (p : Params) : Nat := 4096 * p.basePage

/-- The defaults R6 gives (NUM_PID_AXES = 5, QD_SIGN = +1). R6 gives no default for QTP_BASE:
DESIGN CHOICE, address 0 (log entry 1). -/
def Params.default : Params := { numPidAxes := .five, qdSign := .plus, basePage := 0 }

/-- The pins where no event that carries them is being taken: a free value, which nothing in the run of the machine
reads (log entry 2). -/
opaque Config.undrivenPins : Pins

/-- `HIST_N`, the depth of the position history per wheel, fixed 17 (R6). -/
abbrev Config.histN : Nat := 17

/-- `NUM_WHEELS`, fixed 2 (R6). -/
abbrev Config.numWheels : Nat := 2

/-- `SPEED_SCALE`, the constant 1000 of the speed formula (R6). -/
abbrev Config.speedScale : Nat := 1000

/-- `PID_SCALE`, the divisor 100 of the PID formula (R6). -/
abbrev Config.pidScale : Nat := 100

/-- `MAXOUT_LIMIT`, the largest legal maxOutputPercent, fixed 100 (R6). -/
abbrev Config.maxoutLimit : Int := 100

/-- The value of the ID register: "QTP" in ASCII and the version 7 (R26). -/
abbrev Config.idValue : Word := 0x51545007#32

end Sys2Proof
end

