-- ==== Sys2Proof/Syntax.lean ====
section
/-! DEFINITION. The instructions of QTP: one constructor per row of spec/opcode_table.json, in the table's order.
A command carries its SEL field where the row leaves SEL free; an MMIO access carries the operand fields of its
offset (wheel, slot, axis) and, for a write, its 32 bits of data. -/

namespace Sys2Proof

/-- QTP's instructions (R80): the eight commands, the register reads, the register writes, the ignored writes. -/
inductive Instr where
  -- form CMD (R84, R85)
  | nop
  | qdSample (sel : BitVec 3)
  | qdSampleAll
  | qdReset
  | tachTick
  | tachCompute
  | pidUpdate (sel : BitVec 3)
  | pidReset (sel : BitVec 3)
  -- form MMIO (R81)
  | rdId
  | rdParams
  | rdCmd
  | wrCmd (c : Word)
  | rdStatus
  | wrStatus (v : Word)
  | rdArg0
  | wrArg0 (v : Word)
  | rdArg1
  | wrArg1 (v : Word)
  | rdRes0
  | rdTachCtrl
  | wrTachCtrl (v : Word)
  | rdQdPins
  | rdQdPrev
  | rdTachState
  | rdQdLast
  | rdPos (w : Wheel)
  | wrPos (w : Wheel) (v : Word)
  | rdErr (w : Wheel)
  | rdSpeed (w : Wheel)
  | rdHist (w : Wheel) (k : BitVec 5)
  | rdPidP (a : BitVec 3)
  | wrPidP (a : BitVec 3) (v : Word)
  | rdPidI (a : BitVec 3)
  | wrPidI (a : BitVec 3) (v : Word)
  | rdPidD (a : BitVec 3)
  | wrPidD (a : BitVec 3) (v : Word)
  | rdPidAw (a : BitVec 3)
  | wrPidAw (a : BitVec 3) (v : Word)
  | rdPidMaxout (a : BitVec 3)
  | wrPidMaxout (a : BitVec 3) (v : Word)
  | rdPidLasterr (a : BitVec 3)
  | rdPidIntegral (a : BitVec 3)
  -- writes to read-only registers (R64)
  | wrId (v : Word)
  | wrParams (v : Word)
  | wrRes0 (v : Word)
  | wrQdPins (v : Word)
  | wrQdPrev (v : Word)
  | wrTachState (v : Word)
  | wrQdLast (v : Word)
  | wrErr (w : Wheel) (v : Word)
  | wrSpeed (w : Wheel) (v : Word)
  | wrHist (w : Wheel) (k : BitVec 5) (v : Word)
  | wrPidLasterr (a : BitVec 3) (v : Word)
  | wrPidIntegral (a : BitVec 3) (v : Word)
deriving DecidableEq, Repr

end Sys2Proof
end

