-- ==== Sys2Proof/WellFormed.lean ====
section
/-! DEFINITION. Which instructions name an operand that exists on a given QTP: a legal SEL (R86), a history slot
(R83), an axis that is present (R39, R82). An instruction that is not well formed still has a meaning in the machine:
a command fails with BAD_SEL (R87), a register access reads 0 and is ignored (R63). -/

namespace Sys2Proof

/-- Does axis number `a` exist when the QTP has `n` axes (R39, R82, R86)? -/
def axisExists (n : NumPidAxes) (a : BitVec 3) : Bool := decide (a.toNat < n.count)

/-- Is `k` a slot of the history (R83)? -/
def slotExists (k : BitVec 5) : Bool := decide (k.toNat < Config.histN)

/-- The operands of an instruction all exist. -/
def wellFormed (n : NumPidAxes) : Instr → Bool
  | .qdSample sel => decide (sel.toNat < Config.numWheels)
  | .pidUpdate sel => axisExists n sel
  | .pidReset sel => axisExists n sel
  | .rdHist _ k => slotExists k
  | .wrHist _ k _ => slotExists k
  | .rdPidP a => axisExists n a
  | .wrPidP a _ => axisExists n a
  | .rdPidI a => axisExists n a
  | .wrPidI a _ => axisExists n a
  | .rdPidD a => axisExists n a
  | .wrPidD a _ => axisExists n a
  | .rdPidAw a => axisExists n a
  | .wrPidAw a _ => axisExists n a
  | .rdPidMaxout a => axisExists n a
  | .wrPidMaxout a _ => axisExists n a
  | .rdPidLasterr a => axisExists n a
  | .rdPidIntegral a => axisExists n a
  | .wrPidLasterr a _ => axisExists n a
  | .wrPidIntegral a _ => axisExists n a
  | .nop => true
  | .qdSampleAll => true
  | .qdReset => true
  | .tachTick => true
  | .tachCompute => true
  | .rdId => true
  | .rdParams => true
  | .rdCmd => true
  | .wrCmd _ => true
  | .rdStatus => true
  | .wrStatus _ => true
  | .rdArg0 => true
  | .wrArg0 _ => true
  | .rdArg1 => true
  | .wrArg1 _ => true
  | .rdRes0 => true
  | .rdTachCtrl => true
  | .wrTachCtrl _ => true
  | .rdQdPins => true
  | .rdQdPrev => true
  | .rdTachState => true
  | .rdQdLast => true
  | .rdPos _ => true
  | .wrPos _ _ => true
  | .rdErr _ => true
  | .rdSpeed _ => true
  | .wrId _ => true
  | .wrParams _ => true
  | .wrRes0 _ => true
  | .wrQdPins _ => true
  | .wrQdPrev _ => true
  | .wrTachState _ => true
  | .wrQdLast _ => true
  | .wrErr _ _ => true
  | .wrSpeed _ _ => true

end Sys2Proof
end

