-- ==== Sys2Proof/Decode.lean ====
section
/-! DEFINITION. Decoding, total on every instruction word and rejecting by name (R81 to R88), and after it the encoder,
written from the same tables of the spec (log entries 5 and 6). -/

namespace Sys2Proof

/-- Why a word is no instruction: a command word that is illegal (R87), an offset that is not a multiple of 4 (R61),
an offset the register map does not name (R63), a list of byte lanes that is not one word (R61). -/
inductive DecodeError where
  | command (e : CmdError)
  | misaligned
  | unmapped
  | notOneWord
deriving DecidableEq, Repr

/-- What decoding answers: an instruction, or a rejection by name. -/
inductive Decoded where
  | instr (i : Instr)
  | rejected (e : DecodeError)
deriving DecidableEq, Repr

/-- The instruction, where there is one. -/
def Decoded.instr? : Decoded → Option Instr
  | .instr i => some i
  | .rejected _ => none

/-! ## Form CMD: the command word `{RSVD[20:0], SEL[2:0], OP[7:0]}` (R84) -/

/-- The OP field, bits 7:0. -/
def opField (c : Word) : BitVec 8 := c.extractLsb' 0 8

/-- The SEL field, bits 10:8. -/
def selField (c : Word) : BitVec 3 := c.extractLsb' 8 3

/-- The RSVD field, bits 31:11; it must be 0. -/
def rsvdField (c : Word) : BitVec 21 := c.extractLsb' 11 21

/-- The opcode map of R85. Every other OP value is unassigned (R88). -/
def opOf? (op : BitVec 8) : Option CmdOp :=
  match op with
  | 0x00#8 => some .nop
  | 0x01#8 => some .qdSample
  | 0x02#8 => some .qdSampleAll
  | 0x03#8 => some .qdReset
  | 0x10#8 => some .tachTick
  | 0x11#8 => some .tachCompute
  | 0x20#8 => some .pidUpdate
  | 0x21#8 => some .pidReset
  | _ => none

/-- A command whose SEL must be 0 (R86): BAD_SEL for any other SEL. -/
def withoutSel (i : Instr) (sel : BitVec 3) : Decoded :=
  if sel = 0#3 then .instr i else .rejected (.command .badSel)

/-- The instruction of a command word. The checks stand in R87's order: RSVD_BITS, ILLEGAL_OP, BAD_SEL.
Of the three commands with a selector the table's rows leave SEL free; a SEL that names no wheel or no axis is then
turned away with BAD_SEL by the command's meaning, which knows NUM_PID_AXES (R134, R192, R193). -/
def decodeCommand (c : Word) : Decoded :=
  if rsvdField c = 0#21 then
    match opOf? (opField c) with
    | none => .rejected (.command .illegalOp)
    | some .nop => withoutSel .nop (selField c)
    | some .qdSample => .instr (.qdSample (selField c))
    | some .qdSampleAll => withoutSel .qdSampleAll (selField c)
    | some .qdReset => withoutSel .qdReset (selField c)
    | some .tachTick => withoutSel .tachTick (selField c)
    | some .tachCompute => withoutSel .tachCompute (selField c)
    | some .pidUpdate => .instr (.pidUpdate (selField c))
    | some .pidReset => .instr (.pidReset (selField c))
  else .rejected (.command .rsvdBits)

/-! ## Form MMIO: the register map (R81 to R83) -/

/-- The wheel a one-bit field of an offset names. -/
def wheelOfBit (b : BitVec 1) : Wheel := if b = 0#1 then .left else .right

/-- The history window: w = offset[7] (R83). -/
def histWheel (off : Offset) : Wheel := wheelOfBit (off.extractLsb' 7 1)

/-- The history window: k = offset[6:2] (R83). -/
def histSlot (off : Offset) : BitVec 5 := off.extractLsb' 2 5

/-- The PID axis blocks: a = offset[7:5] (R82). -/
def pidAxisField (off : Offset) : BitVec 3 := off.extractLsb' 5 3

/-- The PID axis blocks: the register is offset[4:2] (R82). -/
def pidRegField (off : Offset) : BitVec 3 := off.extractLsb' 2 3

/-- The reads of one PID axis block (R82). Word 7 is reserved. -/
def decodePidRead (a r : BitVec 3) : Decoded :=
  match r with
  | 0#3 => .instr (.rdPidP a)
  | 1#3 => .instr (.rdPidI a)
  | 2#3 => .instr (.rdPidD a)
  | 3#3 => .instr (.rdPidAw a)
  | 4#3 => .instr (.rdPidMaxout a)
  | 5#3 => .instr (.rdPidLasterr a)
  | 6#3 => .instr (.rdPidIntegral a)
  | _ => .rejected .unmapped

/-- The writes of one PID axis block (R82). -/
def decodePidWrite (a r : BitVec 3) (v : Word) : Decoded :=
  match r with
  | 0#3 => .instr (.wrPidP a v)
  | 1#3 => .instr (.wrPidI a v)
  | 2#3 => .instr (.wrPidD a v)
  | 3#3 => .instr (.wrPidAw a v)
  | 4#3 => .instr (.wrPidMaxout a v)
  | 5#3 => .instr (.wrPidLasterr a v)
  | 6#3 => .instr (.wrPidIntegral a v)
  | _ => .rejected .unmapped

/-- The reads of the offsets 0x000 to 0x0FF (R81). -/
def decodeLowRead (off : Offset) : Decoded :=
  match off with
  | 0x000#12 => .instr .rdId
  | 0x004#12 => .instr .rdParams
  | 0x008#12 => .instr .rdCmd
  | 0x00C#12 => .instr .rdStatus
  | 0x010#12 => .instr .rdArg0
  | 0x014#12 => .instr .rdArg1
  | 0x018#12 => .instr .rdRes0
  | 0x01C#12 => .instr .rdTachCtrl
  | 0x020#12 => .instr .rdQdPins
  | 0x024#12 => .instr .rdQdPrev
  | 0x028#12 => .instr .rdTachState
  | 0x02C#12 => .instr .rdQdLast
  | 0x040#12 => .instr (.rdPos .left)
  | 0x044#12 => .instr (.rdPos .right)
  | 0x048#12 => .instr (.rdErr .left)
  | 0x04C#12 => .instr (.rdErr .right)
  | 0x050#12 => .instr (.rdSpeed .left)
  | 0x054#12 => .instr (.rdSpeed .right)
  | _ => .rejected .unmapped

/-- The writes of the offsets 0x000 to 0x0FF (R81). -/
def decodeLowWrite (off : Offset) (v : Word) : Decoded :=
  match off with
  | 0x000#12 => .instr (.wrId v)
  | 0x004#12 => .instr (.wrParams v)
  | 0x008#12 => .instr (.wrCmd v)
  | 0x00C#12 => .instr (.wrStatus v)
  | 0x010#12 => .instr (.wrArg0 v)
  | 0x014#12 => .instr (.wrArg1 v)
  | 0x018#12 => .instr (.wrRes0 v)
  | 0x01C#12 => .instr (.wrTachCtrl v)
  | 0x020#12 => .instr (.wrQdPins v)
  | 0x024#12 => .instr (.wrQdPrev v)
  | 0x028#12 => .instr (.wrTachState v)
  | 0x02C#12 => .instr (.wrQdLast v)
  | 0x040#12 => .instr (.wrPos .left v)
  | 0x044#12 => .instr (.wrPos .right v)
  | 0x048#12 => .instr (.wrErr .left v)
  | 0x04C#12 => .instr (.wrErr .right v)
  | 0x050#12 => .instr (.wrSpeed .left v)
  | 0x054#12 => .instr (.wrSpeed .right v)
  | _ => .rejected .unmapped

/-- An access that is 4 bytes wide is legal where its offset is a multiple of 4 (R61): bits [1:0] are 0. -/
def wordAligned (off : Offset) : Bool := decide (off.extractLsb' 0 2 = 0#2)

/-- A read of one offset, by its bits [11:8] (R81 to R83). Offsets 0x300 to 0xFFF are wholly unmapped. -/
def decodeRead (off : Offset) : Decoded :=
  if wordAligned off then
    match off.extractLsb' 8 4 with
    | 0#4 => decodeLowRead off
    | 1#4 => .instr (.rdHist (histWheel off) (histSlot off))
    | 2#4 => decodePidRead (pidAxisField off) (pidRegField off)
    | _ => .rejected .unmapped
  else .rejected .misaligned

/-- A write to one offset, by its bits [11:8] (R81 to R83). -/
def decodeWrite (off : Offset) (v : Word) : Decoded :=
  if wordAligned off then
    match off.extractLsb' 8 4 with
    | 0#4 => decodeLowWrite off v
    | 1#4 => .instr (.wrHist (histWheel off) (histSlot off) v)
    | 2#4 => decodePidWrite (pidAxisField off) (pidRegField off) v
    | _ => .rejected .unmapped
  else .rejected .misaligned

/-- The decoder: total on both forms of R80. -/
def decode : InstrWord → Decoded
  | .cmd c => decodeCommand c
  | .mmioRead off => decodeRead off
  | .mmioWrite off v => decodeWrite off v

/-! ## The encoder -/

/-- The command word of an OP and a SEL: `{RSVD = 0, SEL, OP}` (R84). -/
def cmdWord (op : BitVec 8) (sel : BitVec 3) : Word := (0#21 ++ sel) ++ op

/-- The one-bit field that names a wheel. -/
def bitOfWheel : Wheel → BitVec 1
  | .left => 0#1
  | .right => 1#1

/-- One of a pair of registers that stand 4 bytes apart, left wheel first (R81). -/
def pairOffset (base : Offset) : Wheel → Offset
  | .left => base
  | .right => base + 4#12

/-- HIST_L[k] at 0x100 + 4k, HIST_R[k] at 0x180 + 4k (R83). -/
def histOffset (w : Wheel) (k : BitVec 5) : Offset := ((1#4 ++ bitOfWheel w) ++ k) ++ 0#2

/-- Register r of axis block a: 0x200 + 0x20a + 4r (R82). -/
def pidOffset (a r : BitVec 3) : Offset := ((2#4 ++ a) ++ r) ++ 0#2

/-- The word that stands for an instruction (R81 to R85). -/
def encode : Instr → InstrWord
  | .nop => .cmd (cmdWord 0x00#8 0#3)
  | .qdSample sel => .cmd (cmdWord 0x01#8 sel)
  | .qdSampleAll => .cmd (cmdWord 0x02#8 0#3)
  | .qdReset => .cmd (cmdWord 0x03#8 0#3)
  | .tachTick => .cmd (cmdWord 0x10#8 0#3)
  | .tachCompute => .cmd (cmdWord 0x11#8 0#3)
  | .pidUpdate sel => .cmd (cmdWord 0x20#8 sel)
  | .pidReset sel => .cmd (cmdWord 0x21#8 sel)
  | .rdId => .mmioRead 0x000#12
  | .rdParams => .mmioRead 0x004#12
  | .rdCmd => .mmioRead 0x008#12
  | .wrCmd c => .mmioWrite 0x008#12 c
  | .rdStatus => .mmioRead 0x00C#12
  | .wrStatus v => .mmioWrite 0x00C#12 v
  | .rdArg0 => .mmioRead 0x010#12
  | .wrArg0 v => .mmioWrite 0x010#12 v
  | .rdArg1 => .mmioRead 0x014#12
  | .wrArg1 v => .mmioWrite 0x014#12 v
  | .rdRes0 => .mmioRead 0x018#12
  | .rdTachCtrl => .mmioRead 0x01C#12
  | .wrTachCtrl v => .mmioWrite 0x01C#12 v
  | .rdQdPins => .mmioRead 0x020#12
  | .rdQdPrev => .mmioRead 0x024#12
  | .rdTachState => .mmioRead 0x028#12
  | .rdQdLast => .mmioRead 0x02C#12
  | .rdPos w => .mmioRead (pairOffset 0x040#12 w)
  | .wrPos w v => .mmioWrite (pairOffset 0x040#12 w) v
  | .rdErr w => .mmioRead (pairOffset 0x048#12 w)
  | .rdSpeed w => .mmioRead (pairOffset 0x050#12 w)
  | .rdHist w k => .mmioRead (histOffset w k)
  | .rdPidP a => .mmioRead (pidOffset a 0#3)
  | .wrPidP a v => .mmioWrite (pidOffset a 0#3) v
  | .rdPidI a => .mmioRead (pidOffset a 1#3)
  | .wrPidI a v => .mmioWrite (pidOffset a 1#3) v
  | .rdPidD a => .mmioRead (pidOffset a 2#3)
  | .wrPidD a v => .mmioWrite (pidOffset a 2#3) v
  | .rdPidAw a => .mmioRead (pidOffset a 3#3)
  | .wrPidAw a v => .mmioWrite (pidOffset a 3#3) v
  | .rdPidMaxout a => .mmioRead (pidOffset a 4#3)
  | .wrPidMaxout a v => .mmioWrite (pidOffset a 4#3) v
  | .rdPidLasterr a => .mmioRead (pidOffset a 5#3)
  | .rdPidIntegral a => .mmioRead (pidOffset a 6#3)
  | .wrId v => .mmioWrite 0x000#12 v
  | .wrParams v => .mmioWrite 0x004#12 v
  | .wrRes0 v => .mmioWrite 0x018#12 v
  | .wrQdPins v => .mmioWrite 0x020#12 v
  | .wrQdPrev v => .mmioWrite 0x024#12 v
  | .wrTachState v => .mmioWrite 0x028#12 v
  | .wrQdLast v => .mmioWrite 0x02C#12 v
  | .wrErr w v => .mmioWrite (pairOffset 0x048#12 w) v
  | .wrSpeed w v => .mmioWrite (pairOffset 0x050#12 w) v
  | .wrHist w k v => .mmioWrite (histOffset w k) v
  | .wrPidLasterr a v => .mmioWrite (pidOffset a 5#3) v
  | .wrPidIntegral a v => .mmioWrite (pidOffset a 6#3) v

/-! ## Words as the host's bus and the opcode table lay them out -/

/-- Byte lane k of the data bus carries bits 8k+7:8k (R62, little-endian). -/
def byteLane (v : Word) (k : Nat) : Byte := v.extractLsb' (8 * k) 8

/-- The four byte lanes of a word, lane 0 first. -/
def lanesOf (v : Word) : List Byte := [byteLane v 0, byteLane v 1, byteLane v 2, byteLane v 3]

/-- A command word from its four byte lanes, lane 0 first (R62), decoded.
A narrower or wider access moves no register value (R61), so it is rejected. -/
def decodeCommandLanes (bytes : List Byte) : Decoded :=
  match bytes with
  | [b0, b1, b2, b3] => decodeCommand (((b3 ++ b2) ++ b1) ++ b0)
  | _ => .rejected .notOneWord

/-- The instruction the decoder reads from a word of spec/opcode_table.json.
A row of 32 bits is a command word (form CMD).
A shorter row is the offset of a host access (form MMIO).
The table gives a read and a write of one offset the same bits, and no bit of the word tells them apart:
the word is taken as the READ of that offset (log entry 6). -/
def decodeTableWord (nbits w : Nat) : Option Instr :=
  if nbits = 32 then (decodeCommandLanes (lanesOf (BitVec.ofNat 32 w))).instr?
  else if w < 4096 then (decode (.mmioRead (BitVec.ofNat 12 w))).instr?
  else none

end Sys2Proof
end

