-- ==== Sys2Proof/Machine/State.lean ====
section
/-! DEFINITION. The state record of QTP (`Block`, R20), unit by unit. Around it `State`, what one run of the model needs besides:
the configuration, the step inputs and the answer on the bus, which are no state of QTP (R22, log entries 1 to 4). Plain data
throughout. -/

namespace Sys2Proof.Machine

/-! ## What the agents send (R8, R9) -/

/-- The events of R9. A host access names the host's address; the offset is the address minus QTP_BASE (R60).
The host's accesses carry the pins as a draw too (R9).
A host write of a size other than 4 bytes carries data that nothing reads. -/
inductive Event where
  | hostRead (pins : Pins) (addr size : Nat)
  | hostWrite (pins : Pins) (addr size : Nat) (value : Word)
  | strobe (pins : Pins)
  | tick
  | reset (pins : Pins)
deriving DecidableEq, Repr

/-- What an event answers on the host bus (R9): nothing, ok for a write, a 32-bit value for a read.
The third answer, BusError, is the fault of the step. -/
inductive Reply where
  | none
  | ok
  | data (v : Word)
deriving DecidableEq, Repr

/-! ## The units' state (R20) -/

/-- The command port's registers (R23 to R25). -/
structure Port where
  arg0 : Word
  arg1 : Word
  res0 : Word
  /-- STATUS.ERR, 4 bits -/
  err : BitVec 4
  /-- STATUS.STICKY -/
  sticky : Bool
deriving DecidableEq, Repr

/-- One wheel of the quadrature decoder (R28 to R31). LAST is held as the result its 2-bit code stands for. -/
structure QdWheel where
  prev : BitVec 2
  pos : Word
  errcnt : Word
  last : SampleResult
deriving DecidableEq, Repr

/-- The tachometer (R32 to R36). -/
structure Tach where
  div : BitVec 16
  periodMs : BitVec 16
  divcnt : BitVec 16
  hist : PerWheel (Vector Word 17)
  idx : Fin 17
  speed : PerWheel Word
deriving DecidableEq, Repr

/-- One PID axis (R37, R38). -/
structure PidAxis where
  p : Word
  i : Word
  d : Word
  aw : Word
  maxout : Word
  lasterr : Word
  integral : Word
deriving DecidableEq, Repr

/-- The PID axes (R82, R190). The fifth does not exist when NUM_PID_AXES = 4 (R39): its slot is then inert
(log entry 11). -/
structure PidBank where
  leftSpeed : PidAxis
  rightSpeed : PidAxis
  leftPosition : PidAxis
  rightPosition : PidAxis
  line : PidAxis
deriving DecidableEq, Repr

/-- The state record of QTP: the state vector of R20 and nothing else. Parameters, transition table, pins and rates are
no part of it (R22). -/
structure Block where
  port : Port
  qd : PerWheel QdWheel
  tach : Tach
  pid : PidBank
deriving DecidableEq, Repr

/-- A run of one QTP: its state record (`toBlock`), and outside it the configuration and the step inputs (R22).
The host gives a step no argument but this one, so they stand beside the record (log entries 1 to 4).
The pins of an event are held by the event alone. -/
structure State extends Block where
  /-- configuration: the parameters of this QTP (R6); no event changes them -/
  params : Params
  /-- step inputs: the events of the agents, the current one first, each with its draw of the pins (R8, R9) -/
  events : List Event
  /-- what the last event answered on the host bus -/
  reply : Reply
deriving DecidableEq, Repr

/-! ## How a step can stop -/

/-- The faults of a run. -/
inductive Fault where
  /-- A host access whose size is not 4 bytes or whose offset is not a multiple of 4 (R222).
  Raised by `step` for the access, never by an instruction.
  Safe: the chip answers with a bus error and goes on, the model stops (R234, log entry 7). -/
  | busError (offset : Offset)
deriving DecidableEq, Repr

/-- The refusals of a run. -/
inductive Refusal where
  /-- An instruction of the opcode table that has no meaning in the model yet, by its mnemonic.
  Raised by an arm of `exec`; every instruction has its meaning, so nothing raises it. Safe. -/
  | notModelled (mnemonic : String)
deriving DecidableEq, Repr

/-! ## Reset (R42, R250) -/

/-- The port after Reset. -/
def Port.reset : Port := { arg0 := 0#32, arg1 := 0#32, res0 := 0#32, err := 0#4, sticky := false }

/-- A wheel after Reset: PREV holds the channel state at the pins during Reset (R28). -/
def QdWheel.reset (channel : BitVec 2) : QdWheel :=
  { prev := channel, pos := 0#32, errcnt := 0#32, last := .zero }

/-- The tachometer after Reset. -/
def Tach.reset : Tach :=
  { div := 5#16
    periodMs := 5#16
    divcnt := 0#16
    hist := { left := Vector.replicate 17 0#32, right := Vector.replicate 17 0#32 }
    idx := 0
    speed := { left := 0#32, right := 0#32 } }

/-- An axis after Reset. -/
def PidAxis.reset : PidAxis :=
  { p := 0#32, i := 0#32, d := 0#32, aw := 0#32, maxout := 0#32, lasterr := 0#32, integral := 0#32 }

/-- The axes after Reset. -/
def PidBank.reset : PidBank :=
  { leftSpeed := PidAxis.reset
    rightSpeed := PidAxis.reset
    leftPosition := PidAxis.reset
    rightPosition := PidAxis.reset
    line := PidAxis.reset }

/-- The state record after Reset, from the channel states at the pins during Reset (R42, R250). -/
def Block.reset (channels : PerWheel (BitVec 2)) : Block :=
  { port := Port.reset
    qd := { left := QdWheel.reset channels.left, right := QdWheel.reset channels.right }
    tach := Tach.reset
    pid := PidBank.reset }

/-- The machine right after reset (R42), with the pins all low during Reset (DESIGN CHOICE, log entry 9),
the parameters at their defaults (log entry 1), no event to come and no reply (log entries 3 and 4). -/
def State.reset : State :=
  { toBlock := Block.reset { left := 0b00#2, right := 0b00#2 }
    params := Params.default
    events := []
    reply := .none }

end Sys2Proof.Machine
end

