-- ==== Sys2Proof/Machine/Operands.lean ====
section
/-! DEFINITION. The operands of QTP's operations: the integer primitives of R11, the channel state at the pins, the
transition table, the selectors of commands and offsets. -/

namespace Sys2Proof.Machine

/-! ## The primitives of R11. Values are mathematical integers; a width applies only at a named conversion. -/

/-- `sext_32(b)`: a 32-bit pattern read as a two's complement int32. -/
def sext32 (b : Word) : Int := b.toInt

/-- `zext_32(b)`: a 32-bit pattern read as uint32. -/
def zext32 (b : Word) : Nat := b.toNat

/-- `bits32(v)`: the 32-bit pattern of the integer v modulo 2^32. -/
def bits32 (v : Int) : Word := BitVec.ofInt 32 v

/-- `wrap32(v) = sext_32(bits32(v))`. -/
def wrap32 (v : Int) : Int := sext32 (bits32 v)

/-- `clamp(v, lo, hi) = min(max(v, lo), hi)`. -/
def clamp (v lo hi : Int) : Int := min (max v lo) hi

/-- `sat32(v)`: saturation to int32. -/
def sat32 (v : Int) : Int := clamp v (-2147483648) 2147483647

/-- `trunc_div(a, b)` for b > 0: `sgn(a) * floor(abs(a) / b)`, the quotient rounded toward zero. -/
def truncDiv (a : Int) (b : Nat) : Int := a.sign * ((a.natAbs / b : Nat) : Int)

/-! ## The pins and the transition table -/

/-- The channel state of one encoder: 2·C1 + C2 (R132). -/
def channelState (e : Encoder) : BitVec 2 := BitVec.ofNat 2 (2 * e.c1.toNat + e.c2.toNat)

/-- The pins of the current event, the first of the list: the draw it carries (R8, R9). A Tick carries none and reads none. -/
def currentPins (events : List Event) : Pins :=
  match events with
  | .hostRead pins _ _ :: _ => pins
  | .hostWrite pins _ _ _ :: _ => pins
  | .strobe pins :: _ => pins
  | .reset pins :: _ => pins
  | .tick :: _ => Config.undrivenPins
  | [] => Config.undrivenPins

/-- The channel state of wheel w at given pins (R132). -/
def pinsOf (pins : Pins) (w : Wheel) : BitVec 2 := channelState (pins.get w)

/-- `Pins(w)`: the channel state of wheel w at the current event (R12, R132). -/
def State.pinsAt (s : State) (w : Wheel) : BitVec 2 := pinsOf (currentPins s.events) w

/-- The 4×4 transition table of R130, `BASE[prev][new]`, for QD_SIGN = +1. -/
def baseTable : Vector (Vector SampleResult 4) 4 :=
  #v[#v[.zero, .plusOne, .minusOne, .error],
     #v[.minusOne, .zero, .error, .plusOne],
     #v[.plusOne, .error, .zero, .minusOne],
     #v[.error, .minusOne, .plusOne, .zero]]

/-- An entry of the base table. -/
def baseEntry (p n : BitVec 2) : SampleResult := baseTable[p.toNat][n.toNat]

/-- QD_SIGN applied to an entry: −1 negates every ±1 entry; 0 and ERROR stay (R131). -/
def signed (sign : QdSign) (r : SampleResult) : SampleResult :=
  match sign with
  | .plus => r
  | .minus =>
    match r with
    | .zero => .zero
    | .plusOne => .minusOne
    | .minusOne => .plusOne
    | .error => .error

/-- `TABLE(p, n)` (R131). -/
def transition (sign : QdSign) (p n : BitVec 2) : SampleResult := signed sign (baseEntry p n)

/-! ## Selectors -/

/-- The wheel a SEL names: 0 left, 1 right, no other legal (R86). -/
def wheelOfSel? (sel : BitVec 3) : Option Wheel :=
  match sel with
  | 0#3 => some .left
  | 1#3 => some .right
  | _ => none

/-- The axis a SEL or an offset's axis field names: 0..NUM_PID_AXES−1 (R82, R86, R199). -/
def axisOf? (n : NumPidAxes) (a : BitVec 3) : Option Axis :=
  match a with
  | 0#3 => some .leftSpeed
  | 1#3 => some .rightSpeed
  | 2#3 => some .leftPosition
  | 3#3 => some .rightPosition
  | 4#3 =>
    match n with
    | .four => none
    | .five => some .line
  | _ => none

/-- A command without a selector: SEL must be 0 (R86). -/
def noSel? (sel : BitVec 3) : Option Unit := if sel = 0#3 then some () else none

/-! ## The window -/

/-- A host address reaches QTP when QTP_BASE ≤ A < QTP_BASE + 4096, at the offset A − QTP_BASE (R60). -/
def offsetOf? (p : Params) (addr : Nat) : Option Offset :=
  if p.qtpBase ≤ addr ∧ addr < p.qtpBase + 4096 then some (BitVec.ofNat 12 (addr - p.qtpBase)) else none

/-- A host access is legal when its size is 4 bytes and its offset is a multiple of 4 (R61). -/
def legalAccess (off : Offset) (size : Nat) : Bool := decide (size = 4) && wordAligned off

end Sys2Proof.Machine
end

