-- ==== Sys2Proof/Machine/Flags.lean ====
section
/-! DEFINITION. QTP's flags (R40): STATUS.ERR and STATUS.STICKY, and the result codes of the samples. -/

namespace Sys2Proof.Machine

/-! ## STATUS (R25) -/

/-- The code of a command error in STATUS.ERR (R221). -/
def errCode : CmdError → BitVec 4
  | .rsvdBits => 1#4
  | .illegalOp => 2#4
  | .badSel => 3#4

/-- `cmd_fail(code)`: ERR takes the code and STICKY is set; nothing else changes (R113). -/
def portFail (e : CmdError) (p : Port) : Port := { p with err := errCode e, sticky := true }

/-- A command that ran sets ERR to 0 and leaves STICKY (R114). -/
def portDone (p : Port) : Port := { p with err := 0#4 }

/-- STATUS as it reads: STICKY in bit 8, ERR in bits 3:0, 0 elsewhere (R115). -/
def statusWord (p : Port) : Word := ((0#23 ++ BitVec.ofBool p.sticky) ++ 0#4) ++ p.err

/-- A STATUS write: bit 8 = 1 clears STICKY, every other bit is ignored (R116). -/
def statusWrite (v : Word) (p : Port) : Port :=
  { p with sticky := if v.getLsbD 8 then false else p.sticky }

/-! ## Sample results (R31, R134) -/

/-- The 2-bit code of a result in LAST (R31). -/
def lastCode : SampleResult → BitVec 2
  | .zero => 0b00#2
  | .plusOne => 0b01#2
  | .minusOne => 0b11#2
  | .error => 0b10#2

/-- The delta a valid result adds to the position; ERROR has none (R133). -/
def deltaOf? : SampleResult → Option Int
  | .zero => some 0
  | .plusOne => some 1
  | .minusOne => some (-1)
  | .error => none

/-- The result as RES0 carries it: 0x80000000 for ERROR, else the delta's 32-bit pattern (R134). -/
def resultWord (r : SampleResult) : Word :=
  match deltaOf? r with
  | some d => bits32 d
  | none => 0x80000000#32

end Sys2Proof.Machine
end

