-- ==== Sys2Proof/Machine/Ops.lean ====
section
/-! DEFINITION. The operations the meanings share: named updates of State, the bus reply, the operations of the three
units (R133, R137, R162, R163, R168, R191, R193), the end of a command (R110, R113, R114) and the Reset event (R250). QTP takes no
trap and returns from none (R227), so there is no exception entry here: a command error is `cmdFail`. -/

namespace Sys2Proof.Machine

/-! ## Updates of State, one per field -/

/-- Replace the command port. -/
def State.setPort (s : State) (p : Port) : State := { s with port := p }

/-- Replace one wheel of the decoder. -/
def State.setWheel (s : State) (w : Wheel) (q : QdWheel) : State := { s with qd := s.qd.set w q }

/-- Replace the tachometer. -/
def State.setTach (s : State) (t : Tach) : State := { s with tach := t }

/-- Replace the axes. -/
def State.setPid (s : State) (b : PidBank) : State := { s with pid := b }

/-- The events that are left. -/
def State.setEvents (s : State) (es : List Event) : State := { s with events := es }

/-- What the event answers on the host bus. -/
def State.setReply (s : State) (r : Reply) : State := { s with reply := r }

/-- The outcome of a register read: the value on the bus, no side effect (R65). -/
def answer (v : Word) (s : State) : Host.Outcome State Fault Refusal := .next (s.setReply (.data v))

/-- The outcome of a host write with all its effects done: ok (R9, R67). -/
def acknowledge (s : State) : Host.Outcome State Fault Refusal := .next (s.setReply .ok)

/-! ## PID axes -/

/-- `PID[a]`. -/
def PidBank.get (b : PidBank) : Axis → PidAxis
  | .leftSpeed => b.leftSpeed
  | .rightSpeed => b.rightSpeed
  | .leftPosition => b.leftPosition
  | .rightPosition => b.rightPosition
  | .line => b.line

/-- `PID[a] <- x`. -/
def PidBank.set (b : PidBank) (a : Axis) (x : PidAxis) : PidBank :=
  match a with
  | .leftSpeed => { b with leftSpeed := x }
  | .rightSpeed => { b with rightSpeed := x }
  | .leftPosition => { b with leftPosition := x }
  | .rightPosition => { b with rightPosition := x }
  | .line => { b with line := x }

/-- Replace one axis. -/
def State.setAxis (s : State) (a : Axis) (x : PidAxis) : State := s.setPid (s.pid.set a x)

/-- The read of a PID register by its axis field: 0 for an axis that does not exist (R63, R199). -/
def pidRead (a : BitVec 3) (reg : PidAxis → Word) (s : State) : Word :=
  match axisOf? s.params.numPidAxes a with
  | some x => reg (s.pid.get x)
  | none => 0#32

/-- The write of a PID register by its axis field: ignored for an axis that does not exist (R63, R199). -/
def pidWrite (a : BitVec 3) (upd : PidAxis → PidAxis) (s : State) : State :=
  match axisOf? s.params.numPidAxes a with
  | some x => s.setAxis x (upd (s.pid.get x))
  | none => s

/-! ## The QD unit -/

/-- ERRCNT + 1, saturating at 2^32 − 1 (R30, R133). -/
def errcntNext (e : Word) : Word := BitVec.ofNat 32 (min (zext32 e + 1) (2 ^ 32 - 1))

/-- A wheel after a sample with result r that saw the channel state n (R133, R223). -/
def sampledWheel (n : BitVec 2) (r : SampleResult) (q : QdWheel) : QdWheel :=
  match deltaOf? r with
  | none => { q with prev := n, errcnt := errcntNext q.errcnt, last := r }
  | some d => { q with prev := n, pos := bits32 (sext32 q.pos + d), last := r }

/-- What a sample of wheel w returns at this moment: TABLE(PREV[w], Pins(w)) (R133). -/
def sampleResult (w : Wheel) (s : State) : SampleResult :=
  transition s.params.qdSign (s.qd.get w).prev (s.pinsAt w)

/-- `qd_sample(w)` (R133). -/
def qdSample (w : Wheel) (s : State) : State :=
  s.setWheel w (sampledWheel (s.pinsAt w) (sampleResult w s) (s.qd.get w))

/-- A sample of both wheels in one step (R135, R136). -/
def qdSampleBoth (s : State) : State := qdSample .right (qdSample .left s)

/-- QD_SAMPLE's operation: sample one wheel, the result to RES0 (R134). -/
def qdSampleToRes0 (w : Wheel) (s : State) : State :=
  (qdSample w s).setPort { s.port with res0 := resultWord (sampleResult w s) }

/-- A wheel with position and error count zeroed; PREV and LAST are kept (R137). -/
def zeroedWheel (q : QdWheel) : QdWheel := { q with pos := 0#32, errcnt := 0#32 }

/-- QD_RESET's operation (R137). -/
def qdZero (s : State) : State :=
  (s.setWheel .left (zeroedWheel s.qd.left)).setWheel .right (zeroedWheel s.qd.right)

/-! ## The TACH unit -/

/-- The next slot of the circular history: (k + 1) mod 17 (R162). -/
def nextSlot (k : Fin 17) : Fin 17 := Fin.ofNat 17 (k.val + 1)

/-- The slot written most recently: (IDX + 16) mod 17 (R166). -/
def newestSlot (k : Fin 17) : Fin 17 := Fin.ofNat 17 (k.val + 16)

/-- `tach_push()`: both positions into slot IDX, IDX onward (R162). -/
def tachPush (posL posR : Word) (t : Tach) : Tach :=
  { t with
    hist := { left := t.hist.left.set t.idx posL, right := t.hist.right.set t.idx posR }
    idx := nextSlot t.idx }

/-- One tick: DIVCNT counts, and where it reaches DIV it returns to 0 and a push happens (R163). -/
def tachTick (s : State) : State :=
  let count := s.tach.divcnt.toNat + 1
  if s.tach.div.toNat ≤ count then
    s.setTach (tachPush s.qd.left.pos s.qd.right.pos { s.tach with divcnt := 0#16 })
  else s.setTach { s.tach with divcnt := BitVec.ofNat 16 count }

/-- `oldest(w)` (R166). -/
def oldest (t : Tach) (w : Wheel) : Int := sext32 ((t.hist.get w)[t.idx])

/-- `newest(w)` (R166). -/
def newest (t : Tach) (w : Wheel) : Int := sext32 ((t.hist.get w)[newestSlot t.idx])

/-- `mag` of R167: |delta| · 1000 / (PERIOD_MS · 16), rounded down, at most 2^31 − 1. -/
def speedMagnitude (delta : Int) (periodMs : Nat) : Nat :=
  min (delta.natAbs * Config.speedScale / (periodMs * (Config.histN - 1))) (2 ^ 31 - 1)

/-- `speed_of(w)` (R167). -/
def speedOf (t : Tach) (w : Wheel) : Int :=
  let delta := wrap32 (oldest t w - newest t w)
  delta.sign * (speedMagnitude delta t.periodMs.toNat : Int)

/-- TACH_COMPUTE's operation (R168). -/
def tachCompute (s : State) : State :=
  s.setTach
    { s.tach with speed := { left := bits32 (speedOf s.tach .left), right := bits32 (speedOf s.tach .right) } }

/-- A field of TACH_CTRL is WARL 1..65535: a write of 0 stores 1 (R32, R161). -/
def atLeastOne (v : BitVec 16) : BitVec 16 := if v = 0#16 then 1#16 else v

/-- A TACH_CTRL write: both fields, and DIVCNT cleared (R161). -/
def tachConfigure (v : Word) (t : Tach) : Tach :=
  { t with
    div := atLeastOne (v.extractLsb' 0 16)
    periodMs := atLeastOne (v.extractLsb' 16 16)
    divcnt := 0#16 }

/-- TACH_CTRL as it reads (R160). -/
def tachCtrlWord (t : Tach) : Word := t.periodMs ++ t.div

/-- TACH_STATE as it reads: IDX in bits [4:0], DIVCNT in bits [31:16] (R165). -/
def tachStateWord (t : Tach) : Word := (t.divcnt ++ 0#11) ++ BitVec.ofNat 5 t.idx.val

/-- A slot of the history window: slots 17 to 31 read 0 (R171). -/
def histRead (t : Tach) (w : Wheel) (k : BitVec 5) : Word :=
  if h : k.toNat < 17 then (t.hist.get w)[k.toNat] else 0#32

/-! ## The PID unit -/

/-- `pid_update` on one axis (R191): the axis afterwards and the output. Every intermediate is exact. -/
def pidUpdateAxis (x : PidAxis) (measured target : Int) : PidAxis × Int :=
  let e := sat32 (target - measured)
  let i := clamp (sext32 x.integral + e) (-(sext32 x.aw)) (sext32 x.aw)
  let dv := e - sext32 x.lasterr
  let acc := sext32 x.p * e + sext32 x.i * i + sext32 x.d * dv
  let raw := truncDiv acc Config.pidScale
  ({ x with lasterr := bits32 e, integral := bits32 i }, clamp raw (-(sext32 x.maxout)) (sext32 x.maxout))

/-- PID_UPDATE's operation on an axis: ARG0 = measured, ARG1 = target, the output to RES0 (R192). -/
def pidUpdate (a : Axis) (s : State) : State :=
  let r := pidUpdateAxis (s.pid.get a) (sext32 s.port.arg0) (sext32 s.port.arg1)
  (s.setAxis a r.1).setPort { s.port with res0 := bits32 r.2 }

/-- PID_RESET's operation on an axis: LASTERR and INTEGRAL to 0, the configuration kept (R193). -/
def pidClear (a : Axis) (s : State) : State :=
  s.setAxis a { s.pid.get a with lasterr := 0#32, integral := 0#32 }

/-- AW is WARL 0..2^31−1: max(0, v) (R195). -/
def awLegal (v : Word) : Word := bits32 (max 0 (sext32 v))

/-- MAXOUT is WARL 0..100: clamp(v, 0, 100) (R196). -/
def maxoutLegal (v : Word) : Word := bits32 (clamp (sext32 v) 0 Config.maxoutLimit)

/-! ## Commands (R110, R113, R114) -/

/-- `cmd_fail`: STATUS and nothing else (R113). -/
def cmdFail (e : CmdError) (s : State) : State := s.setPort (portFail e s.port)

/-- A command's operation has run: STATUS.ERR is 0 (R114). -/
def cmdDone (s : State) : State := s.setPort (portDone s.port)

/-- A command whose SEL passes R86's check runs its operation and ends well; BAD_SEL where SEL names nothing (R87). -/
def withSel {α : Type} (sel? : Option α) (run : α → State → State) (s : State) : State :=
  match sel? with
  | some x => cmdDone (run x s)
  | none => cmdFail .badSel s

/-- The last two branches of R110: the check of SEL and the operation, for an assigned OP. -/
def runCommand (op : CmdOp) (sel : BitVec 3) (s : State) : State :=
  match op with
  | .nop => withSel (noSel? sel) (fun _ s => s) s
  | .qdSample => withSel (wheelOfSel? sel) qdSampleToRes0 s
  | .qdSampleAll => withSel (noSel? sel) (fun _ => qdSampleBoth) s
  | .qdReset => withSel (noSel? sel) (fun _ => qdZero) s
  | .tachTick => withSel (noSel? sel) (fun _ => tachTick) s
  | .tachCompute => withSel (noSel? sel) (fun _ => tachCompute) s
  | .pidUpdate => withSel (axisOf? s.params.numPidAxes sel) pidUpdate s
  | .pidReset => withSel (axisOf? s.params.numPidAxes sel) pidClear s

/-- A CMD write (R110): the checks in R224's order, then the command. -/
def dispatchCommand (c : Word) (s : State) : State :=
  if rsvdField c = 0#21 then
    match opOf? (opField c) with
    | none => cmdFail .illegalOp s
    | some op => runCommand op (selField c) s
  else cmdFail .rsvdBits s

/-! ## Reset (R250) -/

/-- The Reset event: the whole state record at its reset values, PREV from the pins present during Reset. The parameters
and the events are no part of the record and stay. -/
def resetWith (pins : Pins) (s : State) : State :=
  { s with toBlock := Block.reset { left := pinsOf pins .left, right := pinsOf pins .right }, reply := .none }

end Sys2Proof.Machine
end

