-- ==== Sys2Proof/Machine/PidUnit.lean ====
section
/-! DEFINITION. The meanings of the PID unit's instructions (43_pid.md R192 to R199). An axis field that names no axis
reads 0 and ignores writes (R199); a command's SEL that names no axis fails with BAD_SEL (R192, R193). -/

namespace Sys2Proof.Machine

/-- PID_UPDATE (R192). -/
def execPidUpdate (sel : BitVec 3) (s : State) : Host.Outcome State Fault Refusal :=
  acknowledge (runCommand .pidUpdate sel s)

/-- PID_RESET (R193). -/
def execPidReset (sel : BitVec 3) (s : State) : Host.Outcome State Fault Refusal :=
  acknowledge (runCommand .pidReset sel s)

/-- RD PID[a].P (R194). -/
def execRdPidP (a : BitVec 3) (s : State) : Host.Outcome State Fault Refusal := answer (pidRead a PidAxis.p s) s

/-- WR PID[a].P (R194). -/
def execWrPidP (a : BitVec 3) (v : Word) (s : State) : Host.Outcome State Fault Refusal :=
  acknowledge (pidWrite a (fun x => { x with p := v }) s)

/-- RD PID[a].I (R194). -/
def execRdPidI (a : BitVec 3) (s : State) : Host.Outcome State Fault Refusal := answer (pidRead a PidAxis.i s) s

/-- WR PID[a].I (R194). -/
def execWrPidI (a : BitVec 3) (v : Word) (s : State) : Host.Outcome State Fault Refusal :=
  acknowledge (pidWrite a (fun x => { x with i := v }) s)

/-- RD PID[a].D (R194). -/
def execRdPidD (a : BitVec 3) (s : State) : Host.Outcome State Fault Refusal := answer (pidRead a PidAxis.d s) s

/-- WR PID[a].D (R194). -/
def execWrPidD (a : BitVec 3) (v : Word) (s : State) : Host.Outcome State Fault Refusal :=
  acknowledge (pidWrite a (fun x => { x with d := v }) s)

/-- RD PID[a].AW (R195). -/
def execRdPidAw (a : BitVec 3) (s : State) : Host.Outcome State Fault Refusal := answer (pidRead a PidAxis.aw s) s

/-- WR PID[a].AW: max(0, v); the stored INTEGRAL is not clamped (R195). -/
def execWrPidAw (a : BitVec 3) (v : Word) (s : State) : Host.Outcome State Fault Refusal :=
  acknowledge (pidWrite a (fun x => { x with aw := awLegal v }) s)

/-- RD PID[a].MAXOUT (R196). -/
def execRdPidMaxout (a : BitVec 3) (s : State) : Host.Outcome State Fault Refusal :=
  answer (pidRead a PidAxis.maxout s) s

/-- WR PID[a].MAXOUT: clamp(v, 0, 100) (R196). -/
def execWrPidMaxout (a : BitVec 3) (v : Word) (s : State) : Host.Outcome State Fault Refusal :=
  acknowledge (pidWrite a (fun x => { x with maxout := maxoutLegal v }) s)

/-- RD PID[a].LASTERR (R197). -/
def execRdPidLasterr (a : BitVec 3) (s : State) : Host.Outcome State Fault Refusal :=
  answer (pidRead a PidAxis.lasterr s) s

/-- RD PID[a].INTEGRAL (R198). -/
def execRdPidIntegral (a : BitVec 3) (s : State) : Host.Outcome State Fault Refusal :=
  answer (pidRead a PidAxis.integral s) s

/-- WR PID[a].LASTERR: read-only, ignored (R197). -/
def execWrPidLasterr (_a : BitVec 3) (_v : Word) (s : State) : Host.Outcome State Fault Refusal := acknowledge s

/-- WR PID[a].INTEGRAL: read-only, ignored (R198). -/
def execWrPidIntegral (_a : BitVec 3) (_v : Word) (s : State) : Host.Outcome State Fault Refusal := acknowledge s

end Sys2Proof.Machine
end

