-- ==== Sys2Proof/Machine/PortUnit.lean ====
section
/-! DEFINITION. The meanings of the command port's instructions and of the identification registers
(40_command_port.md R110 to R121). -/

namespace Sys2Proof.Machine

/-- NOP (R112). -/
def execNop (s : State) : Host.Outcome State Fault Refusal := acknowledge (runCommand .nop 0#3 s)

/-- WR CMD, command dispatch (R110). -/
def execWrCmd (c : Word) (s : State) : Host.Outcome State Fault Refusal := acknowledge (dispatchCommand c s)

/-- RD CMD: always 0 (R111). -/
def execRdCmd (s : State) : Host.Outcome State Fault Refusal := answer 0#32 s

/-- RD ID (R120). -/
def execRdId (s : State) : Host.Outcome State Fault Refusal := answer Config.idValue s

/-- RD PARAMS: `{NUM_PID_AXES[3:0], 0x2, 0x11}` zero-extended (R27, R121). -/
def execRdParams (s : State) : Host.Outcome State Fault Refusal :=
  answer (((0#16 ++ BitVec.ofNat 4 s.params.numPidAxes.count) ++ BitVec.ofNat 4 Config.numWheels)
    ++ BitVec.ofNat 8 Config.histN) s

/-- RD STATUS (R115). -/
def execRdStatus (s : State) : Host.Outcome State Fault Refusal := answer (statusWord s.port) s

/-- WR STATUS: write 1 to bit 8 to clear STICKY (R116). -/
def execWrStatus (v : Word) (s : State) : Host.Outcome State Fault Refusal :=
  acknowledge (s.setPort (statusWrite v s.port))

/-- RD ARG0 (R117). -/
def execRdArg0 (s : State) : Host.Outcome State Fault Refusal := answer s.port.arg0 s

/-- WR ARG0 (R117). -/
def execWrArg0 (v : Word) (s : State) : Host.Outcome State Fault Refusal :=
  acknowledge (s.setPort { s.port with arg0 := v })

/-- RD ARG1 (R118). -/
def execRdArg1 (s : State) : Host.Outcome State Fault Refusal := answer s.port.arg1 s

/-- WR ARG1 (R118). -/
def execWrArg1 (v : Word) (s : State) : Host.Outcome State Fault Refusal :=
  acknowledge (s.setPort { s.port with arg1 := v })

/-- RD RES0 (R119). -/
def execRdRes0 (s : State) : Host.Outcome State Fault Refusal := answer s.port.res0 s

/-- WR ID: read-only, ignored (R64, R120). -/
def execWrId (_v : Word) (s : State) : Host.Outcome State Fault Refusal := acknowledge s

/-- WR PARAMS: read-only, ignored (R64, R121). -/
def execWrParams (_v : Word) (s : State) : Host.Outcome State Fault Refusal := acknowledge s

/-- WR RES0: read-only, ignored (R64, R119). -/
def execWrRes0 (_v : Word) (s : State) : Host.Outcome State Fault Refusal := acknowledge s

end Sys2Proof.Machine
end

