-- ==== Sys2Proof/Machine/QdUnit.lean ====
section
/-! DEFINITION. The meanings of the QD unit's instructions (41_quad_decoder.md R134 to R144). -/

namespace Sys2Proof.Machine

/-- QD_SAMPLE (R134): BAD_SEL where SEL names no wheel. -/
def execQdSample (sel : BitVec 3) (s : State) : Host.Outcome State Fault Refusal :=
  acknowledge (runCommand .qdSample sel s)

/-- QD_SAMPLE_ALL (R135). -/
def execQdSampleAll (s : State) : Host.Outcome State Fault Refusal := acknowledge (runCommand .qdSampleAll 0#3 s)

/-- QD_RESET (R137). -/
def execQdReset (s : State) : Host.Outcome State Fault Refusal := acknowledge (runCommand .qdReset 0#3 s)

/-- RD POS_L, RD POS_R: getPosition (R138). -/
def execRdPos (w : Wheel) (s : State) : Host.Outcome State Fault Refusal := answer (s.qd.get w).pos s

/-- WR POS_L, WR POS_R: setPosition (R139). -/
def execWrPos (w : Wheel) (v : Word) (s : State) : Host.Outcome State Fault Refusal :=
  acknowledge (s.setWheel w { s.qd.get w with pos := v })

/-- RD ERR_L, RD ERR_R: getErrorCount (R140). -/
def execRdErr (w : Wheel) (s : State) : Host.Outcome State Fault Refusal := answer (s.qd.get w).errcnt s

/-- RD QD_PINS: the pins at the read, `{Pins(1), Pins(0)}` (R142). -/
def execRdQdPins (s : State) : Host.Outcome State Fault Refusal :=
  answer ((0#28 ++ s.pinsAt .right) ++ s.pinsAt .left) s

/-- RD QD_PREV: `{PREV[1], PREV[0]}` (R143). -/
def execRdQdPrev (s : State) : Host.Outcome State Fault Refusal :=
  answer ((0#28 ++ s.qd.right.prev) ++ s.qd.left.prev) s

/-- RD QD_LAST: `{LAST[1], LAST[0]}` (R144). -/
def execRdQdLast (s : State) : Host.Outcome State Fault Refusal :=
  answer ((0#28 ++ lastCode s.qd.right.last) ++ lastCode s.qd.left.last) s

/-- WR QD_PINS: read-only, ignored (R64, R142). -/
def execWrQdPins (_v : Word) (s : State) : Host.Outcome State Fault Refusal := acknowledge s

/-- WR QD_PREV: read-only, ignored (R64, R143). -/
def execWrQdPrev (_v : Word) (s : State) : Host.Outcome State Fault Refusal := acknowledge s

/-- WR QD_LAST: read-only, ignored (R64, R144). -/
def execWrQdLast (_v : Word) (s : State) : Host.Outcome State Fault Refusal := acknowledge s

/-- WR ERR_L, WR ERR_R: read-only, ignored (R141). -/
def execWrErr (_w : Wheel) (_v : Word) (s : State) : Host.Outcome State Fault Refusal := acknowledge s

end Sys2Proof.Machine
end

