-- ==== Sys2Proof/Machine/TachUnit.lean ====
section
/-! DEFINITION. The meanings of the TACH unit's instructions (42_tachometer.md R160 to R172). -/

namespace Sys2Proof.Machine

/-- TACH_TICK (R163). -/
def execTachTick (s : State) : Host.Outcome State Fault Refusal := acknowledge (runCommand .tachTick 0#3 s)

/-- TACH_COMPUTE (R168). -/
def execTachCompute (s : State) : Host.Outcome State Fault Refusal := acknowledge (runCommand .tachCompute 0#3 s)

/-- RD TACH_CTRL (R160). -/
def execRdTachCtrl (s : State) : Host.Outcome State Fault Refusal := answer (tachCtrlWord s.tach) s

/-- WR TACH_CTRL (R161). -/
def execWrTachCtrl (v : Word) (s : State) : Host.Outcome State Fault Refusal :=
  acknowledge (s.setTach (tachConfigure v s.tach))

/-- RD TACH_STATE (R165). -/
def execRdTachState (s : State) : Host.Outcome State Fault Refusal := answer (tachStateWord s.tach) s

/-- RD SPEED_L, RD SPEED_R: getSpeed, a plain read (R169). -/
def execRdSpeed (w : Wheel) (s : State) : Host.Outcome State Fault Refusal := answer (s.tach.speed.get w) s

/-- RD HIST_L[k], RD HIST_R[k] (R171). -/
def execRdHist (w : Wheel) (k : BitVec 5) (s : State) : Host.Outcome State Fault Refusal :=
  answer (histRead s.tach w k) s

/-- WR TACH_STATE: read-only, ignored (R64, R165). -/
def execWrTachState (_v : Word) (s : State) : Host.Outcome State Fault Refusal := acknowledge s

/-- WR SPEED_L, WR SPEED_R: read-only, ignored (R170). -/
def execWrSpeed (_w : Wheel) (_v : Word) (s : State) : Host.Outcome State Fault Refusal := acknowledge s

/-- WR HIST_L[k], WR HIST_R[k]: read-only, ignored (R172). -/
def execWrHist (_w : Wheel) (_k : BitVec 5) (_v : Word) (s : State) : Host.Outcome State Fault Refusal :=
  acknowledge s

end Sys2Proof.Machine
end

