-- ==== Sys2Proof/Machine/Dispatch.lean ====
section
/-! DEFINITION. Dispatch: each instruction to its meaning. -/

namespace Sys2Proof.Machine

/-- The meaning of an instruction. -/
def exec (i : Instr) (s : State) : Host.Outcome State Fault Refusal :=
  match i with
  | .nop => Sys2Proof.Machine.execNop s
  | .qdSample sel => Sys2Proof.Machine.execQdSample sel s
  | .qdSampleAll => Sys2Proof.Machine.execQdSampleAll s
  | .qdReset => Sys2Proof.Machine.execQdReset s
  | .tachTick => Sys2Proof.Machine.execTachTick s
  | .tachCompute => Sys2Proof.Machine.execTachCompute s
  | .pidUpdate sel => Sys2Proof.Machine.execPidUpdate sel s
  | .pidReset sel => Sys2Proof.Machine.execPidReset sel s
  | .rdId => Sys2Proof.Machine.execRdId s
  | .rdParams => Sys2Proof.Machine.execRdParams s
  | .rdCmd => Sys2Proof.Machine.execRdCmd s
  | .wrCmd c => Sys2Proof.Machine.execWrCmd c s
  | .rdStatus => Sys2Proof.Machine.execRdStatus s
  | .wrStatus v => Sys2Proof.Machine.execWrStatus v s
  | .rdArg0 => Sys2Proof.Machine.execRdArg0 s
  | .wrArg0 v => Sys2Proof.Machine.execWrArg0 v s
  | .rdArg1 => Sys2Proof.Machine.execRdArg1 s
  | .wrArg1 v => Sys2Proof.Machine.execWrArg1 v s
  | .rdRes0 => Sys2Proof.Machine.execRdRes0 s
  | .rdTachCtrl => Sys2Proof.Machine.execRdTachCtrl s
  | .wrTachCtrl v => Sys2Proof.Machine.execWrTachCtrl v s
  | .rdQdPins => Sys2Proof.Machine.execRdQdPins s
  | .rdQdPrev => Sys2Proof.Machine.execRdQdPrev s
  | .rdTachState => Sys2Proof.Machine.execRdTachState s
  | .rdQdLast => Sys2Proof.Machine.execRdQdLast s
  | .rdPos w => Sys2Proof.Machine.execRdPos w s
  | .wrPos w v => Sys2Proof.Machine.execWrPos w v s
  | .rdErr w => Sys2Proof.Machine.execRdErr w s
  | .rdSpeed w => Sys2Proof.Machine.execRdSpeed w s
  | .rdHist w k => Sys2Proof.Machine.execRdHist w k s
  | .rdPidP a => Sys2Proof.Machine.execRdPidP a s
  | .wrPidP a v => Sys2Proof.Machine.execWrPidP a v s
  | .rdPidI a => Sys2Proof.Machine.execRdPidI a s
  | .wrPidI a v => Sys2Proof.Machine.execWrPidI a v s
  | .rdPidD a => Sys2Proof.Machine.execRdPidD a s
  | .wrPidD a v => Sys2Proof.Machine.execWrPidD a v s
  | .rdPidAw a => Sys2Proof.Machine.execRdPidAw a s
  | .wrPidAw a v => Sys2Proof.Machine.execWrPidAw a v s
  | .rdPidMaxout a => Sys2Proof.Machine.execRdPidMaxout a s
  | .wrPidMaxout a v => Sys2Proof.Machine.execWrPidMaxout a v s
  | .rdPidLasterr a => Sys2Proof.Machine.execRdPidLasterr a s
  | .rdPidIntegral a => Sys2Proof.Machine.execRdPidIntegral a s
  | .wrId v => Sys2Proof.Machine.execWrId v s
  | .wrParams v => Sys2Proof.Machine.execWrParams v s
  | .wrRes0 v => Sys2Proof.Machine.execWrRes0 v s
  | .wrQdPins v => Sys2Proof.Machine.execWrQdPins v s
  | .wrQdPrev v => Sys2Proof.Machine.execWrQdPrev v s
  | .wrTachState v => Sys2Proof.Machine.execWrTachState v s
  | .wrQdLast v => Sys2Proof.Machine.execWrQdLast v s
  | .wrErr w v => Sys2Proof.Machine.execWrErr w v s
  | .wrSpeed w v => Sys2Proof.Machine.execWrSpeed w v s
  | .wrHist w k v => Sys2Proof.Machine.execWrHist w k v s
  | .wrPidLasterr a v => Sys2Proof.Machine.execWrPidLasterr a v s
  | .wrPidIntegral a v => Sys2Proof.Machine.execWrPidIntegral a v s

end Sys2Proof.Machine
end

