-- ==== Sys2Proof/Machine/Events.lean ====
section
/-! DEFINITION. What each event of R9 does. Every event is one atomic step (R66). The program of the host is the
sequence of its accesses: the instruction of an access is what the decoder reads from its direction, offset and data. -/

namespace Sys2Proof.Machine

/-- A legal 4-byte read at an offset: the register's read, or 0 where the map names no register (R63, R65). -/
def readAt (off : Offset) (s : State) : Host.Outcome State Fault Refusal :=
  match decode (.mmioRead off) with
  | .instr i => exec i s
  | .rejected _ => answer 0#32 s

/-- A legal 4-byte write at an offset: the register's write, or nothing where the map names no register (R63, R65). -/
def writeAt (off : Offset) (v : Word) (s : State) : Host.Outcome State Fault Refusal :=
  match decode (.mmioWrite off v) with
  | .instr i => exec i s
  | .rejected _ => acknowledge s

/-- A host access: one outside the window does not reach QTP (R60, log entry 8), one that is not legal raises BusError
and changes nothing (R61, R222, log entry 7), a legal one runs. -/
def hostAccess (addr size : Nat) (run : Offset → State → Host.Outcome State Fault Refusal) (s : State) :
    Host.Outcome State Fault Refusal :=
  match offsetOf? s.params addr with
  | none => .next (s.setReply .none)
  | some off => if legalAccess off size then run off s else .fault (.busError off)

/-- One event, the current one of the state. Strobe and Tick run QD_SAMPLE_ALL's and TACH_TICK's operation and leave STATUS and RES0 alone
(R136, R164). -/
def takeEvent (e : Event) (s : State) : Host.Outcome State Fault Refusal :=
  match e with
  | .hostRead _ addr size => hostAccess addr size readAt s
  | .hostWrite _ addr size v => hostAccess addr size (fun off => writeAt off v) s
  | .strobe _ => .next ((qdSampleBoth s).setReply .none)
  | .tick => .next ((tachTick s).setReply .none)
  | .reset pins => .next (resetWith pins s)

/-- All pins low. -/
def lowPins : Pins := { left := { c1 := false, c2 := false }, right := { c1 := false, c2 := false } }

/-- An event that went on is over: what remains of the list is `rest`. -/
def endEvent (rest : List Event) (o : Host.Outcome State Fault Refusal) : Host.Outcome State Fault Refusal :=
  match o with
  | .next t => .next (t.setEvents rest)
  | .fault f => .fault f
  | .refused r => .refused r

/-- The event that makes the host's next access stand for a word of spec/opcode_table.json (log entry 6): a 32-bit row is
a command word written to CMD, a shorter row is the offset of a 4-byte read, both with the pins low (DESIGN CHOICE). -/
def fetchEvent (s : State) (nbits w : Nat) : Event :=
  if nbits = 32 then .hostWrite lowPins (s.params.qtpBase + 0x008) 4 (BitVec.ofNat 32 w)
  else .hostRead lowPins (s.params.qtpBase + w) 4

end Sys2Proof.Machine
end

