-- ==== Sys2Proof/Machine/Step.lean ====
section
/-! DEFINITION. The step: the next event of the agents, taken whole (R66). -/

namespace Sys2Proof.Machine

/-- One step takes the first event of the list, whole, and then drops it. With none, nothing changes (R233). -/
def step (s : State) : Host.Outcome State Fault Refusal :=
  match s.events with
  | [] => .next s
  | e :: rest => endEvent rest (takeEvent e s)

/-- The state in which the host's next access stands for the given word of the opcode table. -/
def State.withFetchWord (s : State) (nbits w : Nat) : State := s.setEvents (fetchEvent s nbits w :: s.events)

end Sys2Proof.Machine
end

