-- ==== Sys2Proof/Safety.lean ====
section
/-! DEFINITION. What counts as a good state and a safe step, and the words the statements use: the invariants of R41, the events a
state stands before, the form of a register's read rule and write rule. Nothing here is called by the machine. -/

namespace Sys2Proof.Machine

/-! ## The invariants of R41 -/

/-- STATUS.ERR is 0, 1, 2 or 3. -/
abbrev Port.Legal (p : Port) : Prop := p.err.toNat ≤ 3

/-- IDX ≤ 16, 1 ≤ DIV, DIVCNT < DIV, 1 ≤ PERIOD_MS. -/
abbrev Tach.Legal (t : Tach) : Prop :=
  t.idx.val ≤ 16 ∧ 1 ≤ t.div.toNat ∧ t.divcnt.toNat < t.div.toNat ∧ 1 ≤ t.periodMs.toNat

/-- 0 ≤ AW and 0 ≤ MAXOUT ≤ 100. -/
abbrev PidAxis.Legal (x : PidAxis) : Prop := 0 ≤ x.aw.toInt ∧ 0 ≤ x.maxout.toInt ∧ x.maxout.toInt ≤ 100

/-- Every axis is legal. -/
abbrev PidBank.Legal (b : PidBank) : Prop :=
  b.leftSpeed.Legal ∧ b.rightSpeed.Legal ∧ b.leftPosition.Legal ∧ b.rightPosition.Legal ∧ b.line.Legal

/-- The slot of an absent axis holds nothing but its reset value (R39, log entry 11). -/
abbrev State.AbsentAxisInert (s : State) : Prop :=
  s.params.numPidAxes = .four → s.pid.line = PidAxis.reset

/-- The invariants of R41, and that an absent axis has no state (R39). -/
abbrev State.Inv (s : State) : Prop := s.port.Legal ∧ s.tach.Legal ∧ s.pid.Legal ∧ s.AbsentAxisInert

/-! ## Numbers of wheels and axes -/

/-- Wheel 0 is the left wheel, wheel 1 the right wheel (R6). -/
def wheelNumber : Wheel → Nat
  | .left => 0
  | .right => 1

/-- The axis numbers of R82. -/
def axisNumber : Axis → Nat
  | .leftSpeed => 0
  | .rightSpeed => 1
  | .leftPosition => 2
  | .rightPosition => 3
  | .line => 4

/-- Axis a exists: a < NUM_PID_AXES (R39). -/
def axisPresent (n : NumPidAxes) (a : Axis) : Prop := axisNumber a < n.count

/-- The offset of a register of a pair: base for the left wheel, base + 4 for the right one (R81). -/
def wheelOffset (base : Nat) (w : Wheel) : Offset := BitVec.ofNat 12 (base + 4 * wheelNumber w)

/-- The offset of slot k of a wheel's history: 0x100 + 4k or 0x180 + 4k (R83). -/
def slotOffset (w : Wheel) (k : Nat) : Offset := BitVec.ofNat 12 (0x100 + 0x80 * wheelNumber w + 4 * k)

/-- The offset of word r of axis block a: 0x200 + 0x20·a + 4·r (R82). -/
def axisOffset (a r : Nat) : Offset := BitVec.ofNat 12 (0x200 + 0x20 * a + 4 * r)

/-! ## The event a state stands before -/

/-- The next event is a 4-byte host write of v to the register at `off`. -/
def State.WritesNext (s : State) (off : Nat) (v : Word) : Prop :=
  ∃ pins rest, s.events = .hostWrite pins (s.params.qtpBase + off) 4 v :: rest

/-- The next event is the command c: a 4-byte host write of c to CMD. -/
def State.CommandNext (s : State) (c : Word) : Prop := s.WritesNext 0x008 c

/-- The next event is a Strobe. -/
def State.StrobeNext (s : State) : Prop := ∃ pins rest, s.events = .strobe pins :: rest

/-- The next event is a Tick. -/
def State.TickNext (s : State) : Prop := ∃ rest, s.events = .tick :: rest

/-- The next event is a Reset. -/
def State.ResetNext (s : State) : Prop := ∃ pins rest, s.events = .reset pins :: rest

/-- An access to a host address of a size that raises BusError at the offset `off` (R60, R61, R222). -/
def IllegalAccess (p : Params) (addr size : Nat) (off : Offset) : Prop :=
  addr = p.qtpBase + off.toNat ∧ (size ≠ 4 ∨ off.toNat % 4 ≠ 0)

/-- The state stands before an access that raises BusError at `off`. -/
def State.BusErrorNext (s : State) (off : Offset) : Prop :=
  ∃ pins addr size rest, IllegalAccess s.params addr size off ∧
    (s.events = .hostRead pins addr size :: rest ∨ ∃ v, s.events = .hostWrite pins addr size v :: rest)

/-- A safe step: the next event raises no BusError. -/
def State.SafeStep (s : State) : Prop := ∀ off, ¬ s.BusErrorNext off

/-! ## The form of a register's rules -/

/-- The register at `off` is read by the instruction i and its value is `val`: the offset decodes to i, i answers the
value and changes nothing else, a 4-byte read of the offset does the same to the state it finds and drops its event, and a
read of any other size raises BusError (R61, R65, R81). -/
def ReadRule (off : Offset) (i : Instr) (val : State → Word) : Prop :=
  decode (.mmioRead off) = .instr i ∧
  (∀ s, exec i s = .next { s with reply := .data (val s) }) ∧
  (∀ s pins rest, s.events = .hostRead pins (s.params.qtpBase + off.toNat) 4 :: rest →
    step s = .next { s with events := rest, reply := .data (val s) }) ∧
  (∀ s pins rest size, size ≠ 4 → s.events = .hostRead pins (s.params.qtpBase + off.toNat) size :: rest →
    step s = .fault (.busError off))

/-- The register at `off` is written by the instructions `i v` with the effect `eff v`: the write of v to the offset decodes to
`i v`, which has the effect and changes nothing else, a 4-byte write to the offset does the same to the state it finds and
drops its event, and a write of any other size raises BusError (R61, R65, R81). -/
def WriteRule (off : Offset) (i : Word → Instr) (eff : Word → State → State) : Prop :=
  (∀ v, decode (.mmioWrite off v) = .instr (i v)) ∧
  (∀ v s, exec (i v) s = .next { eff v s with reply := .ok }) ∧
  (∀ s pins v rest, s.events = .hostWrite pins (s.params.qtpBase + off.toNat) 4 v :: rest →
    step s = .next { eff v s with events := rest, reply := .ok }) ∧
  (∀ s pins v rest size, size ≠ 4 → s.events = .hostWrite pins (s.params.qtpBase + off.toNat) size v :: rest →
    step s = .fault (.busError off))

/-- The outcome of a CMD write that fails with a code: STATUS.ERR takes it, STICKY is set, nothing else changes (R113), and the
host's write is answered with ok. -/
def failedWith (code : BitVec 4) (s : State) : Host.Outcome State Fault Refusal :=
  .next { s with port := { s.port with err := code, sticky := true }, reply := .ok }

/-- The outcome of a command that ran with the given units afterwards: STATUS.ERR is 0, STICKY and everything not named is as
before (R114), and the host's write is answered with ok. -/
def ranWith (s : State) (res0 : Word) (qd : PerWheel QdWheel) (tach : Tach) (pid : PidBank) :
    Host.Outcome State Fault Refusal :=
  .next { s with
    port := { s.port with res0 := res0, err := 0#4 }, qd := qd, tach := tach, pid := pid, reply := .ok }

end Sys2Proof.Machine
end

