-- ==== Sys2Proof/Certificates/Slice0/Obligations.lean ====
section
/-! DEFINITION. The statements for the provers. Each docstring names the rules of spec/ it states or rests on. The answer on
the host bus (`reply`), the list of events and the parameters in State are the model's own fields (log entries 1 to 4): a clause
about them rests on those entries. -/

namespace Sys2Proof

open Machine

/-! ## The words the statements use, written from the spec beside the machine's own definitions -/

/-- The offsets of R81 to R83 that name a register, for n axes, as numbers. -/
def MappedOffset (n : Nat) (off : Nat) : Prop :=
  off ∈ [0x000, 0x004, 0x008, 0x00C, 0x010, 0x014, 0x018, 0x01C, 0x020, 0x024, 0x028, 0x02C,
    0x040, 0x044, 0x048, 0x04C, 0x050, 0x054] ∨
  (∃ k, k ≤ 16 ∧ (off = 0x100 + 4 * k ∨ off = 0x180 + 4 * k)) ∨
  (∃ a r, a < n ∧ r ≤ 6 ∧ off = 0x200 + 0x20 * a + 4 * r)

/-- SEL is legal for OP (R86), as numbers, for n axes. -/
def SelLegal (n op sel : Nat) : Prop :=
  (op = 0x01 ∧ sel ≤ 1) ∨ (op ∈ [0x20, 0x21] ∧ sel < n) ∨ (op ∈ [0x00, 0x02, 0x03, 0x10, 0x11] ∧ sel = 0)

/-- The next channel state of the sequence that counts +1: 00 → 01 → 11 → 10 → 00 (R130). -/
def grayNext (p : BitVec 2) : BitVec 2 :=
  if p = 0b00#2 then 0b01#2 else if p = 0b01#2 then 0b11#2 else if p = 0b11#2 then 0b10#2 else 0b00#2

/-- QD_SIGN as a number (R6). -/
def signValue : QdSign → Int
  | .plus => 1
  | .minus => -1

/-- What a sample that goes from p to n counts (R130, R131): 0 for identical states, QD_SIGN for a step along the sequence,
−QD_SIGN for a step against it, nothing for a diagonal transition. -/
def grayCount (sign : QdSign) (p n : BitVec 2) : Option Int :=
  if n = p then some 0
  else if n = grayNext p then some (signValue sign)
  else if p = grayNext n then some (-signValue sign)
  else none

/-- The channel state 2·C1 + C2 (R132). -/
def channelOf (e : Encoder) : BitVec 2 := BitVec.ofBool e.c1 ++ BitVec.ofBool e.c2

/-- The result LAST stands for after a count (R31). -/
def resultOf : Option Int → SampleResult
  | none => .error
  | some d => if d = 0 then .zero else if d = 1 then .plusOne else .minusOne

/-- A wheel after a sample at the channel state n (R133): PREV follows, a count is added to POS modulo 2^32, a diagonal
transition counts in ERRCNT, which stays at 2^32 − 1 once there. -/
def wheelAfter (sign : QdSign) (n : BitVec 2) (q : QdWheel) : QdWheel :=
  match grayCount sign q.prev n with
  | some d => { q with prev := n, pos := q.pos + BitVec.ofInt 32 d, last := resultOf (some d) }
  | none =>
    { q with prev := n, errcnt := if q.errcnt = 0xFFFFFFFF#32 then q.errcnt else q.errcnt + 1#32, last := .error }

/-- The pins present at the current event, the first of the list: the draw it carries (R8, R9). Where no event with a draw is
current they are the model's free value (log entry 2). -/
def pinsPresent (s : State) : Pins :=
  match s.events with
  | .hostRead pins _ _ :: _ => pins
  | .hostWrite pins _ _ _ :: _ => pins
  | .strobe pins :: _ => pins
  | .reset pins :: _ => pins
  | _ => Config.undrivenPins

/-- The channel state of wheel w at the current event (R132). -/
def channelNow (s : State) (w : Wheel) : BitVec 2 := channelOf ((pinsPresent s).get w)

/-- The wheel w after a sample at the pins of the current event. -/
def sampledAt (s : State) (w : Wheel) : QdWheel := wheelAfter s.params.qdSign (channelNow s w) (s.qd.get w)

/-- Both wheels after a sample. -/
def bothSampled (s : State) : PerWheel QdWheel := { left := sampledAt s .left, right := sampledAt s .right }

/-- RES0 after QD_SAMPLE (R134): +1 → 0x00000001, 0 → 0, −1 → 0xFFFFFFFF, ERROR → 0x80000000. -/
def res0Of : Option Int → Word
  | none => 0x80000000#32
  | some d => if d = 0 then 0#32 else if d = 1 then 1#32 else 0xFFFFFFFF#32

/-- The history entry of age j, j = 0 the newest and j = 16 the oldest (R166). -/
def entryOfAge (t : Tach) (w : Wheel) (j : Fin 17) : Word := (t.hist.get w)[(t.idx.val + 16 - j.val) % 17]'(by omega)

/-- A push (R162): both positions into slot IDX, every other slot as before, IDX onward modulo 17. -/
def Pushed (s : State) (t : Tach) : Prop :=
  (∀ w, ∀ k : Fin 17, (t.hist.get w)[k] = if k = s.tach.idx then (s.qd.get w).pos else (s.tach.hist.get w)[k]) ∧
  t.idx.val = (s.tach.idx.val + 1) % 17

/-- One tick of the divider (R163): below DIV it counts; on reaching DIV it returns to 0 and a push happens. DIV, PERIOD_MS and
SPEED stay. -/
def Ticked (s : State) (t : Tach) : Prop :=
  t.div = s.tach.div ∧ t.periodMs = s.tach.periodMs ∧ t.speed = s.tach.speed ∧
  (s.tach.divcnt.toNat + 1 < s.tach.div.toNat →
    t.divcnt.toNat = s.tach.divcnt.toNat + 1 ∧ t.hist = s.tach.hist ∧ t.idx = s.tach.idx) ∧
  (s.tach.div.toNat ≤ s.tach.divcnt.toNat + 1 → t.divcnt = 0#16 ∧ Pushed s t)

/-- The error of a PID update, target − measured saturated to int32 (R191). -/
def pidError (m t : Word) : Int := max (-2147483648) (min 2147483647 (t.toInt - m.toInt))

/-- The integral of a PID update: the sum clamped to ±AW (R191). -/
def pidIntegral (x : PidAxis) (m t : Word) : Int :=
  min (max (x.integral.toInt + pidError m t) (-x.aw.toInt)) x.aw.toInt

/-- The output of a PID update: the accumulator divided by 100 toward zero, clamped to ±MAXOUT (R191). -/
def pidOutput (x : PidAxis) (m t : Word) : Int :=
  min (max ((x.p.toInt * pidError m t + x.i.toInt * pidIntegral x m t
    + x.d.toInt * (pidError m t - x.lasterr.toInt)).tdiv 100) (-x.maxout.toInt)) x.maxout.toInt

/-- An axis after a PID update (R191): LASTERR and INTEGRAL, the configuration kept. -/
def axisAfter (x : PidAxis) (m t : Word) : PidAxis :=
  { x with lasterr := BitVec.ofInt 32 (pidError m t), integral := BitVec.ofInt 32 (pidIntegral x m t) }

end Sys2Proof

section

open Sys2Proof Sys2Proof.Machine

/-! ## Encoding -/

/-- Decode and encode agree: every instruction, with every value of its operands, is what its word decodes to (R80 to
R86). -/
def Obligations.DecodeInvertsEncode : Prop := ∀ i : Instr, decode (encode i) = .instr i

/-- Each word has one meaning: a word that decodes to an instruction is that instruction's encoding, so no bit of a
word is dropped (R80 to R87). -/
def Obligations.EncodeInvertsDecode : Prop := ∀ (w : InstrWord) (i : Instr), decode w = .instr i → encode i = w

/-- Words written out from the spec's encodings decode to the instructions they stand for (R81, R83, R82, R85). -/
def Obligations.WrittenWordsDecode : Prop :=
  decode (.cmd 0x00000000#32) = .instr .nop ∧
  decode (.cmd 0x00000101#32) = .instr (.qdSample 1#3) ∧
  decode (.cmd 0x00000003#32) = .instr .qdReset ∧
  decode (.cmd 0x00000011#32) = .instr .tachCompute ∧
  decode (.cmd 0x00000420#32) = .instr (.pidUpdate 4#3) ∧
  decode (.mmioRead 0x054#12) = .instr (.rdSpeed .right) ∧
  decode (.mmioRead 0x1C0#12) = .instr (.rdHist .right 16#5) ∧
  decode (.mmioWrite 0x24C#12 7#32) = .instr (.wrPidAw 2#3 7#32) ∧
  decode (.cmd 0x00000800#32) = .rejected (.command .rsvdBits) ∧
  decode (.cmd 0x00000004#32) = .rejected (.command .illegalOp) ∧
  decode (.cmd 0x00000110#32) = .rejected (.command .badSel) ∧
  decode (.mmioRead 0x21C#12) = .rejected .unmapped

/-- A command word is well formed exactly when R86 makes its SEL legal, and the command of a legal word runs: STATUS.ERR is 0
and STICKY as before. The command of a word with RSVD = 0 and an assigned OP whose SEL is not legal fails with BAD_SEL (R86, R87, R114). -/
def Obligations.WellFormedCommandsRun : Prop :=
  ∀ (c : Word) (i : Instr) (s : State), decode (.cmd c) = .instr i →
    (wellFormed s.params.numPidAxes i = true ↔ SelLegal s.params.numPidAxes.count (c.toNat % 256) (c.toNat / 256)) ∧
    (wellFormed s.params.numPidAxes i = true →
      ∃ t, exec i s = .next t ∧ t.port.err = 0#4 ∧ t.port.sticky = s.port.sticky ∧
        t.port.arg0 = s.port.arg0 ∧ t.port.arg1 = s.port.arg1) ∧
    (wellFormed s.params.numPidAxes i = false → exec i s = failedWith 3#4 s)

/-! ## Steps and events -/

/-- A step runs the decoded instruction: a legal 4-byte access to an offset of the window that decodes to i is exec of i at the state
that the access finds, after which the access is dropped from the list (R60, R65, R66). A write of a legal command word to CMD is
exec of the command (R110). -/
def Obligations.StepRunsDecodedInstruction : Prop :=
  ∀ (s : State) (pins : Pins) (rest : List Event) (off : Offset) (i : Instr) (v : Word),
    (s.events = .hostRead pins (s.params.qtpBase + off.toNat) 4 :: rest → decode (.mmioRead off) = .instr i →
      ∃ t, exec i s = .next t ∧ step s = .next { t with events := rest }) ∧
    (s.events = .hostWrite pins (s.params.qtpBase + off.toNat) 4 v :: rest → decode (.mmioWrite off v) = .instr i →
      ∃ t, exec i s = .next t ∧ step s = .next { t with events := rest }) ∧
    (s.events = .hostWrite pins (s.params.qtpBase + 0x008) 4 v :: rest → decode (.cmd v) = .instr i →
      ∃ t, exec i s = .next t ∧ step s = .next { t with events := rest })

/-- BusError exactly: a step faults exactly when the next event is an access inside the window of a size other than 4 bytes or
at an offset that is not a multiple of 4, and the fault names the offset (R61, R222, R234; log entry 7). -/
def Obligations.BusErrorExactly : Prop :=
  ∀ (s : State) (off : Offset), step s = .fault (.busError off) ↔ s.BusErrorNext off

/-- No event is lost or merged: a step that goes on has taken exactly the first event of the list, and no event changes the
parameters (R66, R68, R22). With no event to come nothing changes (R233). -/
def Obligations.StepTakesOneEvent : Prop :=
  (∀ s t, step s = .next t → t.events = s.events.tail ∧ t.params = s.params) ∧
  (∀ s, s.events = [] → step s = .next s)

/-- Every instruction completes, in every state: exec answers a next state, and no instruction changes the parameters
or the events (R220, R227: no outcome stops the block). -/
def Obligations.EveryInstructionCompletes : Prop :=
  ∀ (i : Instr) (s : State), ∃ t, exec i s = .next t ∧ t.params = s.params ∧ t.events = s.events

/-- From every state that stands before no BusError a step goes on; no step ever answers a refusal (R220, R222). -/
def Obligations.SafeStepGoesOn : Prop :=
  (∀ s : State, s.SafeStep → ∃ t, step s = .next t) ∧ (∀ (s : State) (r : Refusal), step s ≠ .refused r)

/-- An access to an address outside the window does not reach QTP: no state of the block changes and nothing is
answered (R60; that the event is then consumed is log entry 8). -/
def Obligations.OutsideWindowDoesNothing : Prop :=
  ∀ (s : State) (pins : Pins) (addr size : Nat) (v : Word) (rest : List Event),
    (addr < s.params.qtpBase ∨ s.params.qtpBase + 4096 ≤ addr) →
    (s.events = .hostRead pins addr size :: rest ∨ s.events = .hostWrite pins addr size v :: rest) →
    step s = .next { s with events := rest, reply := .none }

/-- A legal access to an offset that the register map does not name reads 0 and ignores writes, and raises no BusError: among
them the reserved word of each axis block, the history offsets above slot 16 and the block of an absent axis (R63). -/
def Obligations.UnmappedOffsetsReadZero : Prop :=
  ∀ (s : State) (pins : Pins) (off : Offset) (v : Word) (rest : List Event),
    off.toNat % 4 = 0 → ¬ MappedOffset s.params.numPidAxes.count off.toNat →
    (s.events = .hostRead pins (s.params.qtpBase + off.toNat) 4 :: rest →
      step s = .next { s with events := rest, reply := .data 0#32 }) ∧
    (s.events = .hostWrite pins (s.params.qtpBase + off.toNat) 4 v :: rest →
      step s = .next { s with events := rest, reply := .ok })

/-- A legal host write to a read-only register is ignored and changes no state; a legal read of the write-only register CMD
returns 0 (R64). -/
def Obligations.ReadOnlyRegistersIgnoreWrites : Prop :=
  WriteRule 0x000#12 .wrId (fun _ s => s) ∧
  WriteRule 0x004#12 .wrParams (fun _ s => s) ∧
  WriteRule 0x018#12 .wrRes0 (fun _ s => s) ∧
  WriteRule 0x020#12 .wrQdPins (fun _ s => s) ∧
  WriteRule 0x024#12 .wrQdPrev (fun _ s => s) ∧
  WriteRule 0x028#12 .wrTachState (fun _ s => s) ∧
  WriteRule 0x02C#12 .wrQdLast (fun _ s => s) ∧
  (∀ w, WriteRule (wheelOffset 0x048 w) (.wrErr w) (fun _ s => s)) ∧
  (∀ w, WriteRule (wheelOffset 0x050 w) (.wrSpeed w) (fun _ s => s)) ∧
  (∀ w, ∀ k : Fin 17, WriteRule (slotOffset w k.val) (.wrHist w (BitVec.ofNat 5 k.val)) (fun _ s => s)) ∧
  (∀ a : Axis, WriteRule (axisOffset (axisNumber a) 5) (.wrPidLasterr (BitVec.ofNat 3 (axisNumber a))) (fun _ s => s)) ∧
  (∀ a : Axis, WriteRule (axisOffset (axisNumber a) 6) (.wrPidIntegral (BitVec.ofNat 3 (axisNumber a))) (fun _ s => s)) ∧
  ReadRule 0x008#12 .rdCmd (fun _ => 0#32)

/-- A read has no side effect: whatever a host read answers, at any address, the registers of all units are as before, and the
same read made again at the same pins answers the same (R65). -/
def Obligations.ReadsHaveNoSideEffect : Prop :=
  ∀ (s t : State) (pins : Pins) (addr size : Nat) (rest : List Event),
    s.events = .hostRead pins addr size :: rest → step s = .next t →
    t = { s with events := rest, reply := t.reply } ∧
    step { t with events := .hostRead pins addr size :: rest } = .next t

/-! ## Reset and the invariants -/

/-- The invariants of R41 hold in the state after reset. -/
def Obligations.ResetMeetsInvariants : Prop := State.reset.Inv

/-- Every step keeps the invariants of R41: IDX ≤ 16, 1 ≤ DIV, DIVCNT < DIV, 1 ≤ PERIOD_MS, 0 ≤ AW and 0 ≤ MAXOUT ≤ 100 of
every axis, STATUS.ERR ∈ {0, 1, 2, 3}, and an absent axis has no state (R39). -/
def Obligations.StepKeepsInvariants : Prop := ∀ s t : State, s.Inv → step s = .next t → t.Inv

/-- The Reset event puts every state element at its reset value, in one step, from every state: PREV at the pins present, DIV
and PERIOD_MS at 5, everything else at 0 (R250). -/
def Obligations.ResetEventResetsEverything : Prop :=
  ∀ (s : State) (pins : Pins) (rest : List Event), s.events = .reset pins :: rest →
    ∃ t, step s = .next t ∧ t.events = rest ∧ t.params = s.params ∧
      (∀ w, t.qd.get w = { prev := channelOf (pins.get w), pos := 0#32, errcnt := 0#32, last := .zero }) ∧
      (∀ w, t.tach.speed.get w = 0#32) ∧
      (∀ w, ∀ k : Fin 17, (t.tach.hist.get w)[k] = 0#32) ∧
      t.tach.idx.val = 0 ∧ t.tach.divcnt = 0#16 ∧ t.tach.div = 5#16 ∧ t.tach.periodMs = 5#16 ∧
      (∀ a, t.pid.get a =
        { p := 0#32, i := 0#32, d := 0#32, aw := 0#32, maxout := 0#32, lasterr := 0#32, integral := 0#32 }) ∧
      t.port = { arg0 := 0#32, arg1 := 0#32, res0 := 0#32, err := 0#4, sticky := false }

/-- After a Reset the first sample of a wheel at rest counts nothing: the same pins at the Reset and at a QD_SAMPLE give RES0 = 0,
and position and error count stay 0 (R251). -/
def Obligations.RestingWheelCountsNothing : Prop :=
  ∀ (s : State) (pins : Pins) (rest : List Event) (w : Wheel),
    s.events = .reset pins ::
      .hostWrite pins (s.params.qtpBase + 0x008) 4 (BitVec.ofNat 32 (0x001 + 256 * wheelNumber w)) :: rest →
    ∃ t, Host.Core.run core 2 s = .next t ∧ t.port.res0 = 0#32 ∧ (t.qd.get w).pos = 0#32 ∧
      (t.qd.get w).errcnt = 0#32 ∧ (t.qd.get w).last = .zero ∧ t.events = rest

/-! ## Command port -/

/-- CMD write: the checks in the order RSVD_BITS, ILLEGAL_OP, BAD_SEL; a word that fails one changes nothing but STATUS; a word
that passes them runs its command and then STATUS.ERR is 0 (R110, R87, R113). -/
def Obligations.CommandDispatch : Prop :=
  (∀ c : Word, decode (.mmioWrite 0x008#12 c) = .instr (.wrCmd c)) ∧
  (∀ (c : Word) (s : State), 2048 ≤ c.toNat → exec (.wrCmd c) s = failedWith 1#4 s) ∧
  (∀ (c : Word) (s : State), c.toNat < 2048 →
    c.toNat % 256 ∉ [0x00, 0x01, 0x02, 0x03, 0x10, 0x11, 0x20, 0x21] → exec (.wrCmd c) s = failedWith 2#4 s) ∧
  (∀ (c : Word) (s : State), c.toNat < 2048 →
    c.toNat % 256 ∈ [0x00, 0x01, 0x02, 0x03, 0x10, 0x11, 0x20, 0x21] →
    ¬ SelLegal s.params.numPidAxes.count (c.toNat % 256) (c.toNat / 256) → exec (.wrCmd c) s = failedWith 3#4 s) ∧
  (∀ (c : Word) (s : State), c.toNat < 2048 →
    SelLegal s.params.numPidAxes.count (c.toNat % 256) (c.toNat / 256) →
    ∃ i t, decode (.cmd c) = .instr i ∧ exec (.wrCmd c) s = exec i s ∧ exec i s = .next t ∧
      t.port.err = 0#4 ∧ t.port.sticky = s.port.sticky) ∧
  (∀ (s : State) (pins : Pins) (c : Word) (rest : List Event),
    s.events = .hostWrite pins (s.params.qtpBase + 0x008) 4 c :: rest →
    ∃ t, exec (.wrCmd c) s = .next t ∧ step s = .next { t with events := rest }) ∧
  (∀ (s : State) (pins : Pins) (c : Word) (size : Nat) (rest : List Event), size ≠ 4 →
    s.events = .hostWrite pins (s.params.qtpBase + 0x008) size c :: rest → step s = .fault (.busError 0x008#12))

/-- NOP runs, sets STATUS.ERR to 0 and changes nothing else; STICKY stays. SEL other than 0 fails with BAD_SEL, bits 31:11 not 0
with RSVD_BITS (R112). -/
def Obligations.NopClearsErrOnly : Prop :=
  decode (.cmd 0x00000000#32) = .instr .nop ∧
  (∀ s : State, exec .nop s = ranWith s s.port.res0 s.qd s.tach s.pid) ∧
  (∀ (c : Word) (s : State), c.toNat % 256 = 0x00 → 256 ≤ c.toNat → c.toNat < 2048 →
    exec (.wrCmd c) s = failedWith 3#4 s) ∧
  (∀ (c : Word) (s : State), c.toNat % 256 = 0x00 → 2048 ≤ c.toNat → exec (.wrCmd c) s = failedWith 1#4 s)

/-- STATUS reads STICKY in bit 8 and ERR in bits 3:0; a write of a 1 to bit 8 clears STICKY, and nothing else of a write has an
effect. Over all events: STICKY is set only by a failing command and cleared only by a STATUS write with bit 8 set or by Reset; ERR
changes only by a CMD write or by Reset (R115, R116). -/
def Obligations.StatusRegister : Prop :=
  ReadRule 0x00C#12 .rdStatus
    (fun s => BitVec.ofNat 32 (s.port.err.toNat + 256 * (if s.port.sticky then 1 else 0))) ∧
  WriteRule 0x00C#12 .wrStatus (fun v s =>
    if v.toNat / 256 % 2 = 1 then { s with port := { s.port with sticky := false } } else s) ∧
  ∀ s t : State, step s = .next t →
    (s.port.sticky = false → t.port.sticky = true → ∃ c, s.CommandNext c ∧ t.port.err ≠ 0#4) ∧
    (s.port.sticky = true → t.port.sticky = false →
      (∃ v : Word, s.WritesNext 0x00C v ∧ v.getLsbD 8 = true) ∨ s.ResetNext) ∧
    (t.port.err ≠ s.port.err → (∃ c, s.CommandNext c) ∨ s.ResetNext)

/-- ARG0 and ARG1 read back what was last written, and a write changes nothing else; RES0 is read and ignores writes. Over all events:
ARG0 and ARG1 change only by a host write to them and by Reset; RES0 changes only by a QD_SAMPLE or a PID_UPDATE of a wheel or an
axis that exists, and by Reset. QD_SAMPLE leaves its result in RES0 and PID_UPDATE its output, with ARG0 read as measured and ARG1 as
target (R117, R118, R119). -/
def Obligations.OperandRegisters : Prop :=
  ReadRule 0x010#12 .rdArg0 (fun s => s.port.arg0) ∧
  WriteRule 0x010#12 .wrArg0 (fun v s => { s with port := { s.port with arg0 := v } }) ∧
  ReadRule 0x014#12 .rdArg1 (fun s => s.port.arg1) ∧
  WriteRule 0x014#12 .wrArg1 (fun v s => { s with port := { s.port with arg1 := v } }) ∧
  ReadRule 0x018#12 .rdRes0 (fun s => s.port.res0) ∧
  WriteRule 0x018#12 .wrRes0 (fun _ s => s) ∧
  (∀ s t : State, step s = .next t →
    (t.port.arg0 ≠ s.port.arg0 → s.WritesNext 0x010 t.port.arg0 ∨ s.ResetNext) ∧
    (t.port.arg1 ≠ s.port.arg1 → s.WritesNext 0x014 t.port.arg1 ∨ s.ResetNext) ∧
    (t.port.res0 ≠ s.port.res0 →
      (∃ w, s.CommandNext (BitVec.ofNat 32 (0x001 + 256 * wheelNumber w))) ∨
      (∃ a, axisPresent s.params.numPidAxes a ∧ s.CommandNext (BitVec.ofNat 32 (0x020 + 256 * axisNumber a))) ∨
      s.ResetNext)) ∧
  (∀ (w : Wheel) (s : State), ∃ t, exec (.qdSample (BitVec.ofNat 3 (wheelNumber w))) s = .next t ∧
    t.port.res0 = res0Of (grayCount s.params.qdSign (s.qd.get w).prev (channelNow s w))) ∧
  (∀ (a : Axis) (s : State), axisPresent s.params.numPidAxes a →
    ∃ t, exec (.pidUpdate (BitVec.ofNat 3 (axisNumber a))) s = .next t ∧
      t.port.res0 = BitVec.ofInt 32 (pidOutput (s.pid.get a) s.port.arg0 s.port.arg1))

/-- ID reads 0x51545007; PARAMS reads 0x00005211 with 5 axes and 0x00004211 with 4; CMD reads 0 (R120, R121, R111). -/
def Obligations.IdentificationRegisters : Prop :=
  ReadRule 0x000#12 .rdId (fun _ => 0x51545007#32) ∧
  ReadRule 0x004#12 .rdParams
    (fun s => BitVec.ofNat 32 (17 + 256 * 2 + 4096 * s.params.numPidAxes.count)) ∧
  WriteRule 0x000#12 .wrId (fun _ s => s) ∧ WriteRule 0x004#12 .wrParams (fun _ s => s) ∧
  ReadRule 0x008#12 .rdCmd (fun _ => 0x00000000#32)

/-! ## QD unit -/

/-- QD_SAMPLE samples the wheel SEL names (0 left, 1 right) and no other, returns the result in RES0 and ends with STATUS.ERR = 0;
any other SEL fails with BAD_SEL and samples nothing; bits 31:11 not 0 fail with RSVD_BITS (R134, R133, R130, R131). -/
def Obligations.QdSampleOneWheel : Prop :=
  (∀ w, decode (.cmd (BitVec.ofNat 32 (0x001 + 256 * wheelNumber w))) =
    .instr (.qdSample (BitVec.ofNat 3 (wheelNumber w)))) ∧
  (∀ (w : Wheel) (s : State), exec (.qdSample (BitVec.ofNat 3 (wheelNumber w))) s =
    ranWith s (res0Of (grayCount s.params.qdSign (s.qd.get w).prev (channelNow s w)))
      (s.qd.set w (sampledAt s w)) s.tach s.pid) ∧
  (∀ (sel : BitVec 3) (s : State), 2 ≤ sel.toNat → exec (.qdSample sel) s = failedWith 3#4 s) ∧
  (∀ (c : Word) (s : State), c.toNat % 256 = 0x01 → 2048 ≤ c.toNat → exec (.wrCmd c) s = failedWith 1#4 s)

/-- QD_SAMPLE_ALL samples both wheels in one step at the pins of that step and leaves RES0; SEL other than 0 fails with BAD_SEL,
bits 31:11 not 0 with RSVD_BITS (R135). -/
def Obligations.QdSampleAllBothWheels : Prop :=
  decode (.cmd 0x00000002#32) = .instr .qdSampleAll ∧
  (∀ s : State, exec .qdSampleAll s = ranWith s s.port.res0 (bothSampled s) s.tach s.pid) ∧
  (∀ (c : Word) (s : State), c.toNat % 256 = 0x02 → 256 ≤ c.toNat → c.toNat < 2048 →
    exec (.wrCmd c) s = failedWith 3#4 s) ∧
  (∀ (c : Word) (s : State), c.toNat % 256 = 0x02 → 2048 ≤ c.toNat → exec (.wrCmd c) s = failedWith 1#4 s)

/-- The order of the two samples inside QD_SAMPLE_ALL cannot be observed: sampling the wheels one after the other, in either order
at the same pins, gives the decoder the same state as QD_SAMPLE_ALL (R135). -/
def Obligations.SampleOrderUnobservable : Prop :=
  ∀ s t u a : State, ∀ first second : Wheel, first ≠ second →
    exec (.qdSample (BitVec.ofNat 3 (wheelNumber first))) s = .next t →
    exec (.qdSample (BitVec.ofNat 3 (wheelNumber second))) t = .next u →
    exec .qdSampleAll s = .next a → u.qd = a.qd

/-- A Strobe runs exactly the operation of QD_SAMPLE_ALL at its pins; STATUS, RES0 and everything else stay (R136). -/
def Obligations.StrobeSamplesBothWheels : Prop :=
  ∀ (s : State) (pins : Pins) (rest : List Event), s.events = .strobe pins :: rest →
    (∀ w, channelNow s w = channelOf (pins.get w)) ∧
    step s = .next { s with qd := bothSampled s, events := rest, reply := .none }

/-- A SignalError is counted and absorbed, from every source of a sample: ERRCNT counts up to 2^32 − 1, PREV takes the new state, POS is
unchanged, LAST = 0b10, a QD_SAMPLE also returns 0x80000000 in RES0, and no error is left in STATUS (R223). -/
def Obligations.SignalErrorAbsorbed : Prop :=
  ∀ (s : State) (w : Wheel), channelNow s w = ~~~(s.qd.get w).prev →
    (∃ t, exec (.qdSample (BitVec.ofNat 3 (wheelNumber w))) s = .next t ∧
      (t.qd.get w).errcnt.toNat = min ((s.qd.get w).errcnt.toNat + 1) (2 ^ 32 - 1) ∧
      (t.qd.get w).prev = channelNow s w ∧ (t.qd.get w).pos = (s.qd.get w).pos ∧
      (t.qd.get w).last = .error ∧ t.port.res0 = 0x80000000#32 ∧ t.port.err = 0#4 ∧ t.port.sticky = s.port.sticky) ∧
    (∃ t, exec .qdSampleAll s = .next t ∧
      (t.qd.get w).errcnt.toNat = min ((s.qd.get w).errcnt.toNat + 1) (2 ^ 32 - 1) ∧
      (t.qd.get w).prev = channelNow s w ∧ (t.qd.get w).pos = (s.qd.get w).pos ∧
      (t.qd.get w).last = .error ∧ t.port.res0 = s.port.res0 ∧ t.port.err = 0#4 ∧ t.port.sticky = s.port.sticky) ∧
    (∀ rest, ∃ t, step { s with events := .strobe (pinsPresent s) :: rest } = .next t ∧
      (t.qd.get w).errcnt.toNat = min ((s.qd.get w).errcnt.toNat + 1) (2 ^ 32 - 1) ∧
      (t.qd.get w).prev = channelNow s w ∧ (t.qd.get w).pos = (s.qd.get w).pos ∧
      (t.qd.get w).last = .error ∧ t.port = s.port)

/-- Missed edges: two Gray steps between two samples give ERROR, three look like one step the other way, four like no motion;
in all three cases steps are lost (R145). -/
def Obligations.MissedEdges : Prop :=
  ∀ (s : State) (w : Wheel) (pins : Pins) (rest : List Event), s.events = .strobe pins :: rest →
    ∃ t, step s = .next t ∧
      (channelOf (pins.get w) = grayNext (grayNext (s.qd.get w).prev) →
        (t.qd.get w).last = .error ∧ (t.qd.get w).pos = (s.qd.get w).pos) ∧
      (channelOf (pins.get w) = grayNext (grayNext (grayNext (s.qd.get w).prev)) →
        (t.qd.get w).pos = (s.qd.get w).pos - BitVec.ofInt 32 (signValue s.params.qdSign) ∧
        (t.qd.get w).errcnt = (s.qd.get w).errcnt) ∧
      (channelOf (pins.get w) = grayNext (grayNext (grayNext (grayNext (s.qd.get w).prev))) →
        (t.qd.get w).last = .zero ∧ (t.qd.get w).pos = (s.qd.get w).pos)

/-- QD_RESET zeroes position and error count of both wheels and keeps PREV, LAST, the tachometer and the PID axes; SEL other than 0 fails with
BAD_SEL, bits 31:11 not 0 with RSVD_BITS; a read of either position right after it answers 0 (R137). -/
def Obligations.QdResetZeroesCounters : Prop :=
  decode (.cmd 0x00000003#32) = .instr .qdReset ∧
  (∀ s : State, exec .qdReset s = ranWith s s.port.res0
    { left := { s.qd.left with pos := 0#32, errcnt := 0#32 }
      right := { s.qd.right with pos := 0#32, errcnt := 0#32 } } s.tach s.pid) ∧
  (∀ (c : Word) (s : State), c.toNat % 256 = 0x03 → 256 ≤ c.toNat → c.toNat < 2048 →
    exec (.wrCmd c) s = failedWith 3#4 s) ∧
  (∀ (c : Word) (s : State), c.toNat % 256 = 0x03 → 2048 ≤ c.toNat → exec (.wrCmd c) s = failedWith 1#4 s) ∧
  (∀ (s : State) (w : Wheel) (p q : Pins) (rest : List Event),
    s.events = .hostWrite p (s.params.qtpBase + 0x008) 4 0x00000003#32 ::
      .hostRead q (s.params.qtpBase + (0x040 + 4 * wheelNumber w)) 4 :: rest →
    ∃ t, Host.Core.run core 2 s = .next t ∧ t.reply = .data 0#32)

/-- POS reads the position; a POS write loads it and changes nothing else; a read right after a write of v answers v
(R138, R139). -/
def Obligations.PositionRegisters : Prop :=
  (∀ w, ReadRule (wheelOffset 0x040 w) (.rdPos w) (fun s => (s.qd.get w).pos)) ∧
  (∀ w, WriteRule (wheelOffset 0x040 w) (.wrPos w) (fun v s => { s with qd := s.qd.set w { s.qd.get w with pos := v } })) ∧
  (∀ (s : State) (w : Wheel) (v : Word) (p q : Pins) (rest : List Event),
    s.events = .hostWrite p (s.params.qtpBase + (0x040 + 4 * wheelNumber w)) 4 v ::
      .hostRead q (s.params.qtpBase + (0x040 + 4 * wheelNumber w)) 4 :: rest →
    ∃ t, Host.Core.run core 2 s = .next t ∧ t.reply = .data v)

/-- ERR reads the error count and ignores writes. Over all events: the count is monotonically increasing, by at most 1 a step, and only
QD_RESET and Reset lower it (R140, R141). -/
def Obligations.ErrorCountRegisters : Prop :=
  (∀ w, ReadRule (wheelOffset 0x048 w) (.rdErr w) (fun s => (s.qd.get w).errcnt)) ∧
  (∀ w, WriteRule (wheelOffset 0x048 w) (.wrErr w) (fun _ s => s)) ∧
  ∀ (s t : State) (w : Wheel), step s = .next t → ¬ s.CommandNext 0x00000003#32 → ¬ s.ResetNext →
    (s.qd.get w).errcnt.toNat ≤ (t.qd.get w).errcnt.toNat ∧
    (t.qd.get w).errcnt.toNat ≤ (s.qd.get w).errcnt.toNat + 1

/-- QD_PINS reads the pins of the read, QD_PREV the states last seen, QD_LAST the codes of the last results, wheel 0 in bits 1:0
and wheel 1 in bits 3:2; writes are ignored (R142, R143, R144). -/
def Obligations.QdObservationRegisters : Prop :=
  ReadRule 0x020#12 .rdQdPins
    (fun s => BitVec.ofNat 32 ((channelNow s .left).toNat + 4 * (channelNow s .right).toNat)) ∧
  ReadRule 0x024#12 .rdQdPrev (fun s => BitVec.ofNat 32 (s.qd.left.prev.toNat + 4 * s.qd.right.prev.toNat)) ∧
  ReadRule 0x02C#12 .rdQdLast (fun s =>
    let code : SampleResult → Nat
      | .zero => 0
      | .plusOne => 1
      | .minusOne => 3
      | .error => 2
    BitVec.ofNat 32 (code s.qd.left.last + 4 * code s.qd.right.last)) ∧
  WriteRule 0x020#12 .wrQdPins (fun _ s => s) ∧
  WriteRule 0x024#12 .wrQdPrev (fun _ s => s) ∧
  WriteRule 0x02C#12 .wrQdLast (fun _ s => s)

/-- POS changes by −1, 0 or +1 modulo 2^32 a step, and PREV only follows the pins of a sample; only QD_RESET, a POS write and Reset make POS
change by anything else (R29, R41, R28). -/
def Obligations.PositionMovesByOneStep : Prop :=
  ∀ (s t : State) (w : Wheel), step s = .next t → ¬ s.ResetNext →
    (t.qd.get w).prev ∈ [(s.qd.get w).prev, channelNow s w] ∧
    (¬ s.CommandNext 0x00000003#32 → (∀ v, ¬ s.WritesNext (0x040 + 4 * wheelNumber w) v) →
      (t.qd.get w).pos ∈ [(s.qd.get w).pos - 1#32, (s.qd.get w).pos, (s.qd.get w).pos + 1#32])

/-- PREV and LAST change only by a sample: a QD_SAMPLE of that wheel, a QD_SAMPLE_ALL or a Strobe; and by Reset (R28, R31). -/
def Obligations.SamplesWritePrevAndLast : Prop :=
  ∀ (s t : State) (w : Wheel), step s = .next t →
    ((t.qd.get w).prev ≠ (s.qd.get w).prev ∨ (t.qd.get w).last ≠ (s.qd.get w).last) →
    s.StrobeNext ∨ s.ResetNext ∨ s.CommandNext 0x00000002#32 ∨
      s.CommandNext (BitVec.ofNat 32 (0x001 + 256 * wheelNumber w))

/-! ## TACH unit -/

/-- TACH_CTRL reads DIV in bits 15:0 and PERIOD_MS in bits 31:16; a write stores both fields, 1 where 0 is written, clears DIVCNT and changes
nothing else. Over all events: DIV and PERIOD_MS change only by a TACH_CTRL write and by Reset, and an event never leaves one at 0 that was
not 0 (R160, R161). -/
def Obligations.TachCtrlRegister : Prop :=
  ReadRule 0x01C#12 .rdTachCtrl (fun s => BitVec.ofNat 32 (s.tach.div.toNat + 65536 * s.tach.periodMs.toNat)) ∧
  WriteRule 0x01C#12 .wrTachCtrl (fun v s => { s with tach := { s.tach with
    div := BitVec.ofNat 16 (max 1 (v.toNat % 65536))
    periodMs := BitVec.ofNat 16 (max 1 (v.toNat / 65536))
    divcnt := 0#16 } }) ∧
  ∀ s t : State, step s = .next t →
    ((t.tach.div ≠ s.tach.div ∨ t.tach.periodMs ≠ s.tach.periodMs) → (∃ v, s.WritesNext 0x01C v) ∨ s.ResetNext) ∧
    (s.tach.div ≠ 0#16 → t.tach.div ≠ 0#16) ∧ (s.tach.periodMs ≠ 0#16 → t.tach.periodMs ≠ 0#16)

/-- TACH_TICK counts one tick and pushes on the DIV-th; SEL other than 0 fails with BAD_SEL, bits 31:11 not 0 with
RSVD_BITS (R163, R162). -/
def Obligations.TachTickCountsAndPushes : Prop :=
  decode (.cmd 0x00000010#32) = .instr .tachTick ∧
  (∀ s : State, ∃ tach, exec .tachTick s = ranWith s s.port.res0 s.qd tach s.pid ∧ Ticked s tach) ∧
  (∀ (c : Word) (s : State), c.toNat % 256 = 0x10 → 256 ≤ c.toNat → c.toNat < 2048 →
    exec (.wrCmd c) s = failedWith 3#4 s) ∧
  (∀ (c : Word) (s : State), c.toNat % 256 = 0x10 → 2048 ≤ c.toNat → exec (.wrCmd c) s = failedWith 1#4 s)

/-- A Tick event runs exactly the operation of TACH_TICK and changes nothing else; STATUS stays (R164). -/
def Obligations.TickEventCountsAndPushes : Prop :=
  ∀ (s : State) (rest : List Event), s.events = .tick :: rest →
    ∃ tach, exec .tachTick s = ranWith s s.port.res0 s.qd tach s.pid ∧ Ticked s tach ∧
      step s = .next { s with tach := tach, events := rest, reply := .none }

/-- Oldest and newest entries: a push makes the position the newest entry, every other entry one push older, and drops the
entry that was oldest (R162, R166). -/
def Obligations.PushAgesTheHistory : Prop :=
  ∀ (s t : State) (w : Wheel), s.TickNext → step s = .next t → s.tach.div.toNat ≤ s.tach.divcnt.toNat + 1 →
    entryOfAge t.tach w 0 = (s.qd.get w).pos ∧
    ∀ j : Fin 16, entryOfAge t.tach w j.succ = entryOfAge s.tach w j.castSucc

/-- TACH_COMPUTE writes both speeds from the oldest and newest entries of one step and changes nothing else: the difference oldest − newest
modulo 2^32 read as int32, times 1000, divided by PERIOD_MS · 16 toward zero, saturated at ±(2^31 − 1); SEL other than 0 fails with
BAD_SEL, bits 31:11 not 0 with RSVD_BITS (R168, R167). -/
def Obligations.TachComputeWritesSpeeds : Prop :=
  decode (.cmd 0x00000011#32) = .instr .tachCompute ∧
  (∀ s : State, ∃ speed,
    exec .tachCompute s = ranWith s s.port.res0 s.qd { s.tach with speed := speed } s.pid ∧
    ∀ w, 1 ≤ s.tach.periodMs.toNat → (speed.get w).toInt =
      max (-2147483647) (min 2147483647
        (((entryOfAge s.tach w 16 - entryOfAge s.tach w 0).toInt * 1000).tdiv (s.tach.periodMs.toNat * 16)))) ∧
  (∀ (c : Word) (s : State), c.toNat % 256 = 0x11 → 256 ≤ c.toNat → c.toNat < 2048 →
    exec (.wrCmd c) s = failedWith 3#4 s) ∧
  (∀ (c : Word) (s : State), c.toNat % 256 = 0x11 → 2048 ≤ c.toNat → exec (.wrCmd c) s = failedWith 1#4 s)

/-- A position that rises by S over the full window gives the speed −S·1000/(PERIOD_MS·16), truncated toward zero, while it fits; it
does so across a wrap of POS (R167, R174, 90_conflicts.md C1). -/
def Obligations.RisingPositionGivesNegativeSpeed : Prop :=
  ∀ (s t : State) (w : Wheel) (S : Nat), exec .tachCompute s = .next t → 1 ≤ s.tach.periodMs.toNat →
    S * 1000 < 2 ^ 31 → entryOfAge s.tach w 0 = entryOfAge s.tach w 16 + BitVec.ofNat 32 S →
    (t.tach.speed.get w).toInt = -((S * 1000 / (s.tach.periodMs.toNat * 16) : Nat) : Int)

/-- TACH_STATE reads IDX in bits 4:0 and DIVCNT in bits 31:16; SPEED reads the last computed speed and HIST slot k of the history; writes
are ignored. Over all events: only TACH_COMPUTE and Reset write SPEED; only a push, of a TACH_TICK or a Tick, and Reset write the history
and IDX (R165, R169, R170, R171, R172). -/
def Obligations.TachObservationRegisters : Prop :=
  ReadRule 0x028#12 .rdTachState (fun s => BitVec.ofNat 32 (s.tach.idx.val + 65536 * s.tach.divcnt.toNat)) ∧
  WriteRule 0x028#12 .wrTachState (fun _ s => s) ∧
  (∀ w, ReadRule (wheelOffset 0x050 w) (.rdSpeed w) (fun s => s.tach.speed.get w)) ∧
  (∀ w, WriteRule (wheelOffset 0x050 w) (.wrSpeed w) (fun _ s => s)) ∧
  (∀ w, ∀ k : Fin 17, ReadRule (slotOffset w k.val) (.rdHist w (BitVec.ofNat 5 k.val))
    (fun s => (s.tach.hist.get w)[k])) ∧
  (∀ w, ∀ k, 17 ≤ k → k < 32 → ReadRule (slotOffset w k) (.rdHist w (BitVec.ofNat 5 k)) (fun _ => 0#32)) ∧
  (∀ w, ∀ k, k < 32 → WriteRule (slotOffset w k) (.wrHist w (BitVec.ofNat 5 k)) (fun _ s => s)) ∧
  ∀ s t : State, step s = .next t →
    (t.tach.speed ≠ s.tach.speed → s.CommandNext 0x00000011#32 ∨ s.ResetNext) ∧
    ((t.tach.hist ≠ s.tach.hist ∨ t.tach.idx ≠ s.tach.idx) →
      s.TickNext ∨ s.CommandNext 0x00000010#32 ∨ s.ResetNext)

/-! ## PID unit -/

/-- PID_UPDATE of an axis that exists: error, integral and output by the exact formula, the output to RES0, LASTERR and INTEGRAL updated, the
configuration, ARG0, ARG1, every other axis and every other unit unchanged; a SEL that names no axis fails with BAD_SEL, bits 31:11 not 0 with
RSVD_BITS (R192, R191). -/
def Obligations.PidUpdateOneAxis : Prop :=
  (∀ a, decode (.cmd (BitVec.ofNat 32 (0x020 + 256 * axisNumber a))) =
    .instr (.pidUpdate (BitVec.ofNat 3 (axisNumber a)))) ∧
  (∀ (a : Axis) (s : State), axisPresent s.params.numPidAxes a →
    exec (.pidUpdate (BitVec.ofNat 3 (axisNumber a))) s =
      ranWith s (BitVec.ofInt 32 (pidOutput (s.pid.get a) s.port.arg0 s.port.arg1)) s.qd s.tach
        (s.pid.set a (axisAfter (s.pid.get a) s.port.arg0 s.port.arg1))) ∧
  (∀ (sel : BitVec 3) (s : State), s.params.numPidAxes.count ≤ sel.toNat →
    exec (.pidUpdate sel) s = failedWith 3#4 s) ∧
  (∀ (c : Word) (s : State), c.toNat % 256 = 0x20 → 2048 ≤ c.toNat → exec (.wrCmd c) s = failedWith 1#4 s)

/-- Anti-windup and saturation: after every PID_UPDATE of a legal axis the new INTEGRAL is in −AW..+AW, the output in −MAXOUT..+MAXOUT, and LASTERR is
exactly the saturated error (R200, R191). -/
def Obligations.PidUpdateStaysInBounds : Prop :=
  ∀ (a : Axis) (s t : State), axisPresent s.params.numPidAxes a → (s.pid.get a).Legal →
    exec (.pidUpdate (BitVec.ofNat 3 (axisNumber a))) s = .next t →
    -(s.pid.get a).aw.toInt ≤ (t.pid.get a).integral.toInt ∧
    (t.pid.get a).integral.toInt ≤ (s.pid.get a).aw.toInt ∧
    -(s.pid.get a).maxout.toInt ≤ t.port.res0.toInt ∧ t.port.res0.toInt ≤ (s.pid.get a).maxout.toInt ∧
    (t.pid.get a).lasterr.toInt = pidError s.port.arg0 s.port.arg1

/-- Determinism: PID_UPDATE is a function of the axis's configuration and state and of the two operands alone; two states that agree on those
agree on the output and on the axis afterwards, whatever else differs (R201). -/
def Obligations.PidUpdateDependsOnAxisOnly : Prop :=
  ∀ (a : Axis) (s₁ s₂ t₁ t₂ : State), axisPresent s₁.params.numPidAxes a → axisPresent s₂.params.numPidAxes a →
    s₁.pid.get a = s₂.pid.get a → s₁.port.arg0 = s₂.port.arg0 → s₁.port.arg1 = s₂.port.arg1 →
    exec (.pidUpdate (BitVec.ofNat 3 (axisNumber a))) s₁ = .next t₁ →
    exec (.pidUpdate (BitVec.ofNat 3 (axisNumber a))) s₂ = .next t₂ →
    t₁.port.res0 = t₂.port.res0 ∧ t₁.pid.get a = t₂.pid.get a

/-- PID_RESET zeroes LASTERR and INTEGRAL of one axis and changes nothing else; a SEL that names no axis fails with BAD_SEL, bits 31:11 not 0
with RSVD_BITS (R193). -/
def Obligations.PidResetOneAxis : Prop :=
  (∀ a, decode (.cmd (BitVec.ofNat 32 (0x021 + 256 * axisNumber a))) =
    .instr (.pidReset (BitVec.ofNat 3 (axisNumber a)))) ∧
  (∀ (a : Axis) (s : State), axisPresent s.params.numPidAxes a →
    exec (.pidReset (BitVec.ofNat 3 (axisNumber a))) s =
      ranWith s s.port.res0 s.qd s.tach (s.pid.set a { s.pid.get a with lasterr := 0#32, integral := 0#32 })) ∧
  (∀ (sel : BitVec 3) (s : State), s.params.numPidAxes.count ≤ sel.toNat →
    exec (.pidReset sel) s = failedWith 3#4 s) ∧
  (∀ (c : Word) (s : State), c.toNat % 256 = 0x21 → 2048 ≤ c.toNat → exec (.wrCmd c) s = failedWith 1#4 s)

/-- P, I and D of an axis that exists read what was written, AW stores max(0, v), MAXOUT stores clamp(v, 0, 100); a write changes that register of that
axis and nothing else (R194, R195, R196). For axis 4 the clause is about a QTP that has it (R39): with 4 axes the block reads 0 and ignores
writes. -/
def Obligations.PidConfigurationRegisters : Prop :=
  ∀ a : Axis,
    let n := BitVec.ofNat 3 (axisNumber a)
    let at? := fun (s : State) (v : Word) => if axisNumber a < s.params.numPidAxes.count then v else 0#32
    let put := fun (s : State) (x : PidAxis) =>
      if axisNumber a < s.params.numPidAxes.count then { s with pid := s.pid.set a x } else s
    ReadRule (axisOffset (axisNumber a) 0) (.rdPidP n) (fun s => at? s (s.pid.get a).p) ∧
    ReadRule (axisOffset (axisNumber a) 1) (.rdPidI n) (fun s => at? s (s.pid.get a).i) ∧
    ReadRule (axisOffset (axisNumber a) 2) (.rdPidD n) (fun s => at? s (s.pid.get a).d) ∧
    ReadRule (axisOffset (axisNumber a) 3) (.rdPidAw n) (fun s => at? s (s.pid.get a).aw) ∧
    ReadRule (axisOffset (axisNumber a) 4) (.rdPidMaxout n) (fun s => at? s (s.pid.get a).maxout) ∧
    WriteRule (axisOffset (axisNumber a) 0) (.wrPidP n) (fun v s => put s { s.pid.get a with p := v }) ∧
    WriteRule (axisOffset (axisNumber a) 1) (.wrPidI n) (fun v s => put s { s.pid.get a with i := v }) ∧
    WriteRule (axisOffset (axisNumber a) 2) (.wrPidD n) (fun v s => put s { s.pid.get a with d := v }) ∧
    WriteRule (axisOffset (axisNumber a) 3) (.wrPidAw n)
      (fun v s => put s { s.pid.get a with aw := if v.toNat < 2 ^ 31 then v else 0#32 }) ∧
    WriteRule (axisOffset (axisNumber a) 4) (.wrPidMaxout n)
      (fun v s => put s { s.pid.get a with
        maxout := if v.toNat < 2 ^ 31 then BitVec.ofNat 32 (min v.toNat 100) else 0#32 })

/-- LASTERR and INTEGRAL of an axis that exists are read; writes to them are ignored. Over all events: only PID_UPDATE and PID_RESET of that
axis and Reset change them; after an update LASTERR holds its saturated error and INTEGRAL the sum of the old INTEGRAL and the error,
clamped to ±AW, without scaling (R197, R198). -/
def Obligations.PidStateRegisters : Prop :=
  ∀ a : Axis,
    let n := BitVec.ofNat 3 (axisNumber a)
    let at? := fun (s : State) (v : Word) => if axisNumber a < s.params.numPidAxes.count then v else 0#32
    ReadRule (axisOffset (axisNumber a) 5) (.rdPidLasterr n) (fun s => at? s (s.pid.get a).lasterr) ∧
    ReadRule (axisOffset (axisNumber a) 6) (.rdPidIntegral n) (fun s => at? s (s.pid.get a).integral) ∧
    WriteRule (axisOffset (axisNumber a) 5) (.wrPidLasterr n) (fun _ s => s) ∧
    WriteRule (axisOffset (axisNumber a) 6) (.wrPidIntegral n) (fun _ s => s) ∧
    (∀ s t : State, step s = .next t →
      ((t.pid.get a).lasterr ≠ (s.pid.get a).lasterr ∨ (t.pid.get a).integral ≠ (s.pid.get a).integral) →
      s.ResetNext ∨ s.CommandNext (BitVec.ofNat 32 (0x020 + 256 * axisNumber a)) ∨
        s.CommandNext (BitVec.ofNat 32 (0x021 + 256 * axisNumber a))) ∧
    (∀ s : State, axisPresent s.params.numPidAxes a →
      ∃ t, exec (.pidUpdate n) s = .next t ∧ (t.pid.get a).lasterr.toInt = pidError s.port.arg0 s.port.arg1 ∧
        (t.pid.get a).integral.toInt = pidIntegral (s.pid.get a) s.port.arg0 s.port.arg1)

/-- An absent axis: its registers read 0 and ignore writes and the commands that select it fail with BAD_SEL; this holds of axis 4 with
NUM_PID_AXES = 4 and of the axis numbers 5 to 7 always. Every aligned offset of its block reads 0 and ignores writes (R199). -/
def Obligations.AbsentAxis : Prop :=
  (∀ (s : State) (a : BitVec 3) (v : Word), s.params.numPidAxes.count ≤ a.toNat →
    (∀ i ∈ [Instr.rdPidP a, .rdPidI a, .rdPidD a, .rdPidAw a, .rdPidMaxout a, .rdPidLasterr a, .rdPidIntegral a],
      exec i s = .next { s with reply := .data 0#32 }) ∧
    (∀ i ∈ [Instr.wrPidP a v, .wrPidI a v, .wrPidD a v, .wrPidAw a v, .wrPidMaxout a v, .wrPidLasterr a v,
        .wrPidIntegral a v],
      exec i s = .next { s with reply := .ok }) ∧
    (∀ i ∈ [Instr.pidUpdate a, .pidReset a], exec i s = failedWith 3#4 s)) ∧
  (∀ (s : State) (pins : Pins) (a r : Nat) (v : Word) (rest : List Event),
    s.params.numPidAxes.count ≤ a → a ≤ 7 → r ≤ 7 →
    (s.events = .hostRead pins (s.params.qtpBase + (0x200 + 0x20 * a + 4 * r)) 4 :: rest →
      step s = .next { s with events := rest, reply := .data 0#32 }) ∧
    (s.events = .hostWrite pins (s.params.qtpBase + (0x200 + 0x20 * a + 4 * r)) 4 v :: rest →
      step s = .next { s with events := rest, reply := .ok }))

/-- Each unit changes only by its own events, commands and registers, over all events. The decoder changes only by a Strobe, a
QD_SAMPLE of a wheel, a QD_SAMPLE_ALL, a QD_RESET, a POS write and Reset; the tachometer only by a Tick, a TACH_TICK, a TACH_COMPUTE, a
TACH_CTRL write and Reset; the PID axes only by a PID_UPDATE or a PID_RESET of an axis that exists, a write to P, I, D, AW or MAXOUT
of an axis that exists, and Reset (R72, R190, R252). -/
def Obligations.UnitsAreSeparate : Prop :=
  ∀ s t : State, step s = .next t →
    (t.qd ≠ s.qd → s.StrobeNext ∨ s.ResetNext ∨
      (∃ c : Word, s.CommandNext c ∧ c.toNat ∈ [0x001, 0x101, 0x002, 0x003]) ∨
      (∃ off v, s.WritesNext off v ∧ off ∈ [0x040, 0x044])) ∧
    (t.tach ≠ s.tach → s.TickNext ∨ s.ResetNext ∨
      (∃ c : Word, s.CommandNext c ∧ c.toNat ∈ [0x010, 0x011]) ∨ (∃ v, s.WritesNext 0x01C v)) ∧
    (t.pid ≠ s.pid → s.ResetNext ∨
      ∃ a, axisPresent s.params.numPidAxes a ∧
        ((∃ c : Word, s.CommandNext c ∧ c.toNat ∈ [0x020 + 256 * axisNumber a, 0x021 + 256 * axisNumber a]) ∨
         (∃ r v, r ≤ 4 ∧ s.WritesNext (0x200 + 0x20 * axisNumber a + 4 * r) v)))

/-- The state record is the whole state of QTP, and parameters and pins are no part of it: two runs of the same QTP with equal state
records that take the same event, with its draw of the pins, end it alike: the same fault, or the same answer and equal state records
afterwards, whatever the other events and the earlier answers of each are (R20, R22). -/
def Obligations.StateRecordIsWholeState : Prop :=
  ∀ (s₁ s₂ : State) (e : Event) (rest₁ rest₂ : List Event), s₁.toBlock = s₂.toBlock → s₁.params = s₂.params →
    s₁.events = e :: rest₁ → s₂.events = e :: rest₂ →
    (∀ t₁, step s₁ = .next t₁ → ∃ t₂, step s₂ = .next t₂ ∧
      t₂.toBlock = t₁.toBlock ∧ t₂.params = t₁.params ∧ t₂.reply = t₁.reply) ∧
    (∀ f, step s₁ = .fault f → step s₂ = .fault f)

end
end

