-- ==== Sys2Proof/Laws/Decode.lean ====
section
/-! SUPPORT. The fields of an encoded word read back, so that no proof takes an encoding apart bit by bit again. -/

namespace Sys2Proof

theorem getLsbD_cmdWord (op : BitVec 8) (sel : BitVec 3) (i : Nat) :
    (cmdWord op sel).getLsbD i = if i < 8 then op.getLsbD i else if i < 11 then sel.getLsbD (i - 8) else false := by
  have h : (cmdWord op sel).getLsbD i = ((0#21 ++ sel : BitVec (21 + 3)) ++ op : BitVec (21 + 3 + 8)).getLsbD i := rfl
  rw [h, BitVec.getLsbD_append, BitVec.getLsbD_append]
  by_cases h8 : i < 8
  · simp [h8]
  · by_cases h11 : i < 11
    · have : i - 8 < 3 := by omega
      simp [h8, h11, this]
    · have : ¬ i - 8 < 3 := by omega
      simp [h8, h11, this]

/-- The reserved field of an encoded command word is 0 (R84). -/
@[simp] theorem rsvdField_cmdWord (op : BitVec 8) (sel : BitVec 3) : rsvdField (cmdWord op sel) = 0#21 := by
  apply BitVec.eq_of_getLsbD_eq
  intro i hi
  simp only [rsvdField, BitVec.getLsbD_extractLsb', getLsbD_cmdWord]
  simp [show ¬ 11 + i < 8 by omega]

@[simp] theorem selField_cmdWord (op : BitVec 8) (sel : BitVec 3) : selField (cmdWord op sel) = sel := by
  apply BitVec.eq_of_getLsbD_eq
  intro i hi
  simp only [selField, BitVec.getLsbD_extractLsb', getLsbD_cmdWord]
  simp [hi, show 8 + i < 11 by omega]

@[simp] theorem opField_cmdWord (op : BitVec 8) (sel : BitVec 3) : opField (cmdWord op sel) = op := by
  apply BitVec.eq_of_getLsbD_eq
  intro i hi
  simp only [opField, BitVec.getLsbD_extractLsb', getLsbD_cmdWord]
  simp [hi]

/-- A command word is its three fields (R84). -/
theorem cmdWord_of_fields (c : Word) (h : rsvdField c = 0#21) : cmdWord (opField c) (selField c) = c := by
  apply BitVec.eq_of_getLsbD_eq
  intro i hi
  rw [getLsbD_cmdWord]
  by_cases h8 : i < 8
  · simp [h8, opField]
  · by_cases h11 : i < 11
    · simp [h8, h11, selField, show i - 8 < 3 by omega, show 8 + (i - 8) = i by omega]
    · have hr : (rsvdField c).getLsbD (i - 11) = false := by rw [h]; simp
      simp only [rsvdField, BitVec.getLsbD_extractLsb'] at hr
      simpa [h8, h11, show i - 11 < 21 by omega, show 11 + (i - 11) = i by omega] using hr

theorem opField_toNat (c : Word) : (opField c).toNat = c.toNat % 256 := by
  simp [opField, BitVec.extractLsb'_toNat]

theorem selField_toNat (c : Word) : (selField c).toNat = c.toNat / 256 % 8 := by
  simp [selField, BitVec.extractLsb'_toNat, Nat.shiftRight_eq_div_pow]

/-- The reserved field is 0 exactly for the words below 2^11. -/
theorem rsvdField_eq_zero_iff (c : Word) : rsvdField c = 0#21 ↔ c.toNat < 2048 := by
  have hc := c.isLt
  rw [← BitVec.toNat_inj]
  simp only [rsvdField, BitVec.extractLsb'_toNat, Nat.shiftRight_eq_div_pow, BitVec.toNat_ofNat]
  omega

/-- A history slot's offset is a multiple of 4 and its fields are the wheel and the slot (R83). -/
theorem histOffset_fields (w : Wheel) (k : BitVec 5) :
    wordAligned (histOffset w k) = true ∧ (histOffset w k).extractLsb' 8 4 = 1#4 ∧
      histWheel (histOffset w k) = w ∧ histSlot (histOffset w k) = k := by
  cases w <;> revert k <;> decide

/-- An axis register's offset is a multiple of 4 and its fields are the axis and the register (R82). -/
theorem pidOffset_fields (a r : BitVec 3) :
    wordAligned (pidOffset a r) = true ∧ (pidOffset a r).extractLsb' 8 4 = 2#4 ∧
      pidAxisField (pidOffset a r) = a ∧ pidRegField (pidOffset a r) = r := by
  revert a r; decide

theorem wordAligned_iff (off : Offset) : wordAligned off = true ↔ off.toNat % 4 = 0 := by
  simp only [wordAligned, decide_eq_true_eq]
  rw [← BitVec.toNat_inj]
  simp [BitVec.extractLsb'_toNat]

end Sys2Proof
end

