-- ==== Sys2Proof/Laws/State.lean ====
section
/-! SUPPORT. One lemma per field per update of State, and the read-after-write laws of the wheels, the axes and the
history. -/

namespace Sys2Proof

@[simp] theorem PerWheel.get_set_same {α : Type} (x : PerWheel α) (w : Wheel) (v : α) : (x.set w v).get w = v := by
  cases w <;> rfl

theorem PerWheel.get_set_other {α : Type} (x : PerWheel α) {w u : Wheel} (v : α) (h : u ≠ w) :
    (x.set w v).get u = x.get u := by
  cases w <;> cases u <;> first | rfl | exact absurd rfl h

/-- Either wheel after a write to one of them. -/
theorem PerWheel.get_set {α : Type} (x : PerWheel α) (w u : Wheel) (v : α) :
    (x.set w v).get u = if u = w then v else x.get u := by
  cases w <;> cases u <;> rfl

@[simp] theorem PerWheel.left_set_left {α : Type} (x : PerWheel α) (v : α) : (x.set .left v).left = v := rfl
@[simp] theorem PerWheel.right_set_left {α : Type} (x : PerWheel α) (v : α) : (x.set .left v).right = x.right := rfl
@[simp] theorem PerWheel.left_set_right {α : Type} (x : PerWheel α) (v : α) : (x.set .right v).left = x.left := rfl
@[simp] theorem PerWheel.right_set_right {α : Type} (x : PerWheel α) (v : α) : (x.set .right v).right = v := rfl

/-- Writing back what a wheel holds changes nothing. -/
@[simp] theorem PerWheel.set_get_self {α : Type} (x : PerWheel α) (w : Wheel) : x.set w (x.get w) = x := by
  cases w <;> rfl

namespace Machine

@[simp] theorem PidBank.get_set_same (b : PidBank) (a : Axis) (x : PidAxis) : (b.set a x).get a = x := by
  cases a <;> rfl

theorem PidBank.get_set_other (b : PidBank) {a c : Axis} (x : PidAxis) (h : c ≠ a) : (b.set a x).get c = b.get c := by
  cases a <;> cases c <;> first | rfl | exact absurd rfl h

/-- Any axis after a write to one of them. -/
theorem PidBank.get_set (b : PidBank) (a c : Axis) (x : PidAxis) :
    (b.set a x).get c = if c = a then x else b.get c := by
  cases a <;> cases c <;> rfl

/-- Writing back what an axis holds changes nothing. -/
@[simp] theorem PidBank.set_get_self (b : PidBank) (a : Axis) : b.set a (b.get a) = b := by
  cases a <;> rfl

variable (s : State)

@[simp] theorem State.setPort_port (p : Port) : (s.setPort p).port = p := rfl
@[simp] theorem State.setPort_qd (p : Port) : (s.setPort p).qd = s.qd := rfl
@[simp] theorem State.setPort_tach (p : Port) : (s.setPort p).tach = s.tach := rfl
@[simp] theorem State.setPort_pid (p : Port) : (s.setPort p).pid = s.pid := rfl
@[simp] theorem State.setPort_params (p : Port) : (s.setPort p).params = s.params := rfl
@[simp] theorem State.setPort_events (p : Port) : (s.setPort p).events = s.events := rfl
@[simp] theorem State.setPort_reply (p : Port) : (s.setPort p).reply = s.reply := rfl

@[simp] theorem State.setWheel_port (w : Wheel) (q : QdWheel) : (s.setWheel w q).port = s.port := rfl
@[simp] theorem State.setWheel_qd (w : Wheel) (q : QdWheel) : (s.setWheel w q).qd = s.qd.set w q := rfl
@[simp] theorem State.setWheel_tach (w : Wheel) (q : QdWheel) : (s.setWheel w q).tach = s.tach := rfl
@[simp] theorem State.setWheel_pid (w : Wheel) (q : QdWheel) : (s.setWheel w q).pid = s.pid := rfl
@[simp] theorem State.setWheel_params (w : Wheel) (q : QdWheel) : (s.setWheel w q).params = s.params := rfl
@[simp] theorem State.setWheel_events (w : Wheel) (q : QdWheel) : (s.setWheel w q).events = s.events := rfl
@[simp] theorem State.setWheel_reply (w : Wheel) (q : QdWheel) : (s.setWheel w q).reply = s.reply := rfl

@[simp] theorem State.setTach_port (t : Tach) : (s.setTach t).port = s.port := rfl
@[simp] theorem State.setTach_qd (t : Tach) : (s.setTach t).qd = s.qd := rfl
@[simp] theorem State.setTach_tach (t : Tach) : (s.setTach t).tach = t := rfl
@[simp] theorem State.setTach_pid (t : Tach) : (s.setTach t).pid = s.pid := rfl
@[simp] theorem State.setTach_params (t : Tach) : (s.setTach t).params = s.params := rfl
@[simp] theorem State.setTach_events (t : Tach) : (s.setTach t).events = s.events := rfl
@[simp] theorem State.setTach_reply (t : Tach) : (s.setTach t).reply = s.reply := rfl

@[simp] theorem State.setPid_port (b : PidBank) : (s.setPid b).port = s.port := rfl
@[simp] theorem State.setPid_qd (b : PidBank) : (s.setPid b).qd = s.qd := rfl
@[simp] theorem State.setPid_tach (b : PidBank) : (s.setPid b).tach = s.tach := rfl
@[simp] theorem State.setPid_pid (b : PidBank) : (s.setPid b).pid = b := rfl
@[simp] theorem State.setPid_params (b : PidBank) : (s.setPid b).params = s.params := rfl
@[simp] theorem State.setPid_events (b : PidBank) : (s.setPid b).events = s.events := rfl
@[simp] theorem State.setPid_reply (b : PidBank) : (s.setPid b).reply = s.reply := rfl

@[simp] theorem State.setAxis_port (a : Axis) (x : PidAxis) : (s.setAxis a x).port = s.port := rfl
@[simp] theorem State.setAxis_qd (a : Axis) (x : PidAxis) : (s.setAxis a x).qd = s.qd := rfl
@[simp] theorem State.setAxis_tach (a : Axis) (x : PidAxis) : (s.setAxis a x).tach = s.tach := rfl
@[simp] theorem State.setAxis_pid (a : Axis) (x : PidAxis) : (s.setAxis a x).pid = s.pid.set a x := rfl
@[simp] theorem State.setAxis_params (a : Axis) (x : PidAxis) : (s.setAxis a x).params = s.params := rfl
@[simp] theorem State.setAxis_events (a : Axis) (x : PidAxis) : (s.setAxis a x).events = s.events := rfl
@[simp] theorem State.setAxis_reply (a : Axis) (x : PidAxis) : (s.setAxis a x).reply = s.reply := rfl

@[simp] theorem State.setEvents_port (es : List Event) : (s.setEvents es).port = s.port := rfl
@[simp] theorem State.setEvents_qd (es : List Event) : (s.setEvents es).qd = s.qd := rfl
@[simp] theorem State.setEvents_tach (es : List Event) : (s.setEvents es).tach = s.tach := rfl
@[simp] theorem State.setEvents_pid (es : List Event) : (s.setEvents es).pid = s.pid := rfl
@[simp] theorem State.setEvents_params (es : List Event) : (s.setEvents es).params = s.params := rfl
@[simp] theorem State.setEvents_events (es : List Event) : (s.setEvents es).events = es := rfl
@[simp] theorem State.setEvents_reply (es : List Event) : (s.setEvents es).reply = s.reply := rfl

@[simp] theorem State.setReply_port (r : Reply) : (s.setReply r).port = s.port := rfl
@[simp] theorem State.setReply_qd (r : Reply) : (s.setReply r).qd = s.qd := rfl
@[simp] theorem State.setReply_tach (r : Reply) : (s.setReply r).tach = s.tach := rfl
@[simp] theorem State.setReply_pid (r : Reply) : (s.setReply r).pid = s.pid := rfl
@[simp] theorem State.setReply_params (r : Reply) : (s.setReply r).params = s.params := rfl
@[simp] theorem State.setReply_events (r : Reply) : (s.setReply r).events = s.events := rfl
@[simp] theorem State.setReply_reply (r : Reply) : (s.setReply r).reply = r := rfl

end Machine

end Sys2Proof
end

