-- ==== Sys2Proof/Laws/Ops.lean ====
section
/-! SUPPORT. What each shared operation does, said once: the window, the integer primitives, the units' operations, the end of
a command. Later proofs cite these and do not unfold the operations. -/

namespace Sys2Proof.Machine

/-! ## The window (R60, R61) -/

theorem offsetOf?_base (p : Params) (off : Offset) : offsetOf? p (p.qtpBase + off.toNat) = some off := by
  have h := off.isLt
  have h1 : p.qtpBase ≤ p.qtpBase + off.toNat ∧ p.qtpBase + off.toNat < p.qtpBase + 4096 := by omega
  rw [offsetOf?, if_pos h1]
  simp

theorem offsetOf?_eq_some_iff (p : Params) (addr : Nat) (off : Offset) :
    offsetOf? p addr = some off ↔ addr = p.qtpBase + off.toNat := by
  constructor
  · intro h
    unfold offsetOf? at h
    split at h
    · rename_i hr
      have ho : BitVec.ofNat 12 (addr - p.qtpBase) = off := Option.some.inj h
      rw [← ho, BitVec.toNat_ofNat]
      omega
    · cases h
  · rintro rfl
    exact offsetOf?_base p off

theorem offsetOf?_eq_none_iff (p : Params) (addr : Nat) :
    offsetOf? p addr = none ↔ addr < p.qtpBase ∨ p.qtpBase + 4096 ≤ addr := by
  unfold offsetOf?
  split
  · simp; omega
  · simp; omega

theorem legalAccess_iff (off : Offset) (size : Nat) :
    legalAccess off size = true ↔ size = 4 ∧ off.toNat % 4 = 0 := by
  simp [legalAccess, wordAligned_iff]

/-- Every host access ends in one of three ways (R60, R61, R222). -/
theorem hostAccess_cases (addr size : Nat) (run : Offset → State → Host.Outcome State Fault Refusal) (s : State) :
    ((addr < s.params.qtpBase ∨ s.params.qtpBase + 4096 ≤ addr) ∧ hostAccess addr size run s = .next (s.setReply .none)) ∨
    (∃ off : Offset, addr = s.params.qtpBase + off.toNat ∧ ¬ (size = 4 ∧ off.toNat % 4 = 0) ∧
      hostAccess addr size run s = .fault (.busError off)) ∨
    (∃ off : Offset, addr = s.params.qtpBase + off.toNat ∧ size = 4 ∧ off.toNat % 4 = 0 ∧
      hostAccess addr size run s = run off s) := by
  cases h : offsetOf? s.params addr with
  | none => exact .inl ⟨(offsetOf?_eq_none_iff _ _).1 h, by simp [hostAccess, h]⟩
  | some off =>
    have ha := (offsetOf?_eq_some_iff _ _ _).1 h
    by_cases hl : legalAccess off size = true
    · have hs := (legalAccess_iff off size).1 hl
      exact .inr (.inr ⟨off, ha, hs.1, hs.2, by simp [hostAccess, h, hl]⟩)
    · exact .inr (.inl ⟨off, ha, fun hc => hl ((legalAccess_iff off size).2 hc), by simp [hostAccess, h, hl]⟩)

theorem hostAccess_legal {off : Offset} (h : off.toNat % 4 = 0) (run) (s : State) :
    hostAccess (s.params.qtpBase + off.toNat) 4 run s = run off s := by
  have hl : legalAccess off 4 = true := (legalAccess_iff off 4).2 ⟨rfl, h⟩
  simp [hostAccess, offsetOf?_base, hl]

theorem hostAccess_illegal {off : Offset} {size : Nat} (h : size ≠ 4 ∨ off.toNat % 4 ≠ 0) (run) (s : State) :
    hostAccess (s.params.qtpBase + off.toNat) size run s = .fault (.busError off) := by
  have hl : ¬ legalAccess off size = true := fun hc => by
    have := (legalAccess_iff off size).1 hc
    omega
  simp [hostAccess, offsetOf?_base, hl]

theorem hostAccess_outside {addr : Nat} {s : State} (h : addr < s.params.qtpBase ∨ s.params.qtpBase + 4096 ≤ addr)
    (size : Nat) (run) : hostAccess addr size run s = .next (s.setReply .none) := by
  simp [hostAccess, (offsetOf?_eq_none_iff s.params addr).2 h]

/-! ## The pins of the current event (R8, R9) -/

section CurrentPins

variable (pins : Pins) (addr size : Nat) (v : Word) (rest : List Event)

@[simp] theorem currentPins_hostRead : currentPins (.hostRead pins addr size :: rest) = pins := rfl
@[simp] theorem currentPins_hostWrite : currentPins (.hostWrite pins addr size v :: rest) = pins := rfl
@[simp] theorem currentPins_strobe : currentPins (.strobe pins :: rest) = pins := rfl
@[simp] theorem currentPins_reset : currentPins (.reset pins :: rest) = pins := rfl

end CurrentPins

/-! ## The end of an event -/

@[simp] theorem endEvent_next (rest : List Event) (t : State) : endEvent rest (.next t) = .next { t with events := rest } := rfl
@[simp] theorem endEvent_fault (rest : List Event) (f : Fault) : endEvent rest (.fault f) = .fault f := rfl

/-! ## The step, by the kind of the next event -/

theorem step_hostRead {s : State} {pins : Pins} {addr size : Nat} {rest : List Event}
    (h : s.events = .hostRead pins addr size :: rest) :
    step s = endEvent rest (hostAccess addr size readAt s) := by
  simp only [step, h]; rfl

theorem step_hostWrite {s : State} {pins : Pins} {addr size : Nat} {v : Word} {rest : List Event}
    (h : s.events = .hostWrite pins addr size v :: rest) :
    step s = endEvent rest (hostAccess addr size (fun off => writeAt off v) s) := by
  simp only [step, h]; rfl

theorem step_strobe {s : State} {pins : Pins} {rest : List Event} (h : s.events = .strobe pins :: rest) :
    step s = .next { qdSampleBoth s with events := rest, reply := .none } := by
  simp only [step, h]; rfl

theorem step_tick {s : State} {rest : List Event} (h : s.events = .tick :: rest) :
    step s = .next { tachTick s with events := rest, reply := .none } := by
  simp only [step, h]; rfl

theorem step_reset {s : State} {pins : Pins} {rest : List Event} (h : s.events = .reset pins :: rest) :
    step s = .next { resetWith pins s with events := rest } := by
  simp only [step, h]; rfl

theorem step_idle {s : State} (h : s.events = []) : step s = .next s := by
  simp only [step, h]

/-! ## The integer primitives (R11) -/

theorem truncDiv_eq_tdiv (a : Int) (b : Nat) : truncDiv a b = a.tdiv b := by
  unfold truncDiv
  rcases Int.natAbs_eq a with h | h
  · by_cases h0 : a.natAbs = 0
    · rw [Int.natAbs_eq_zero.1 h0]; simp
    · have hs : a.sign = 1 := Int.sign_eq_one_of_pos (by omega)
      rw [hs, one_mul]
      conv_rhs => rw [h]
      exact (Int.ofNat_tdiv a.natAbs b).symm
  · by_cases h0 : a.natAbs = 0
    · rw [Int.natAbs_eq_zero.1 h0]; simp
    · have hs : a.sign = -1 := Int.sign_eq_neg_one_of_neg (by omega)
      rw [hs]
      conv_rhs => rw [h, Int.neg_tdiv]
      rw [← Int.ofNat_tdiv]; ring

theorem clamp_bounds {v lo hi : Int} (h : lo ≤ hi) : lo ≤ clamp v lo hi ∧ clamp v lo hi ≤ hi := by
  unfold clamp; omega

theorem clamp_self {v lo hi : Int} (h : lo ≤ v) (h' : v ≤ hi) : clamp v lo hi = v := by
  unfold clamp; omega

/-- A pattern written from an int32 reads back as it. -/
theorem sext32_bits32 {v : Int} (h : -2147483648 ≤ v) (h' : v ≤ 2147483647) : sext32 (bits32 v) = v := by
  unfold sext32 bits32
  rw [BitVec.toInt_ofInt, Int.bmod_eq_of_le] <;> norm_num <;> omega

@[simp] theorem bits32_sext32 (b : Word) : bits32 (sext32 b) = b := by
  simp [bits32, sext32]

theorem sext32_bounds (b : Word) : -2147483648 ≤ sext32 b ∧ sext32 b ≤ 2147483647 := by
  have h1 := @BitVec.toInt_lt 32 b
  have h2 := @BitVec.le_toInt 32 b
  unfold sext32
  norm_num at h1 h2
  omega

/-- Adding an integer to the int32 a pattern reads as is adding patterns (R29: modulo 2^32). -/
theorem bits32_sext32_add (b : Word) (d : Int) : bits32 (sext32 b + d) = b + BitVec.ofInt 32 d := by
  simp [bits32, sext32, BitVec.ofInt_add]

theorem errcntNext_toNat (e : Word) : (errcntNext e).toNat = min (e.toNat + 1) (2 ^ 32 - 1) := by
  unfold errcntNext zext32
  rw [BitVec.toNat_ofNat]
  apply Nat.mod_eq_of_lt
  omega

/-! ## Selectors -/

theorem axisOf?_eq_none_iff (n : NumPidAxes) (a : BitVec 3) : axisOf? n a = none ↔ n.count ≤ a.toNat := by
  cases n <;> revert a <;> decide

theorem axisOf?_number {n : NumPidAxes} {a : Axis} (h : axisPresent n a) :
    axisOf? n (BitVec.ofNat 3 (axisNumber a)) = some a := by
  cases n <;> cases a <;> first | rfl | (simp [axisPresent, axisNumber, NumPidAxes.count] at h)

theorem axisOf?_eq_some {n : NumPidAxes} {sel : BitVec 3} {a : Axis} (h : axisOf? n sel = some a) :
    axisPresent n a ∧ sel = BitVec.ofNat 3 (axisNumber a) := by
  revert sel a
  have key : ∀ sel : BitVec 3, ∀ a ∈ axisOf? n sel, axisNumber a < n.count ∧ sel = BitVec.ofNat 3 (axisNumber a) := by
    cases n <;> decide
  intro sel a h
  exact key sel a h

theorem wheelOfSel?_eq_none_iff (sel : BitVec 3) : wheelOfSel? sel = none ↔ 2 ≤ sel.toNat := by
  revert sel; decide

theorem wheelOfSel?_number (w : Wheel) : wheelOfSel? (BitVec.ofNat 3 (wheelNumber w)) = some w := by
  cases w <;> rfl

theorem wheelOfSel?_eq_some {sel : BitVec 3} {w : Wheel} (h : wheelOfSel? sel = some w) :
    sel = BitVec.ofNat 3 (wheelNumber w) := by
  revert sel
  cases w <;> decide

/-! ## What the units' operations leave alone -/

section Frames

variable (s : State) (w : Wheel) (a : Axis)

@[simp] theorem qdSample_port : (qdSample w s).port = s.port := rfl
@[simp] theorem qdSample_tach : (qdSample w s).tach = s.tach := rfl
@[simp] theorem qdSample_pid : (qdSample w s).pid = s.pid := rfl
@[simp] theorem qdSample_params : (qdSample w s).params = s.params := rfl
@[simp] theorem qdSample_events : (qdSample w s).events = s.events := rfl

/-- The sampled wheel afterwards (R133). -/
@[simp] theorem qdSample_same : (qdSample w s).qd.get w =
    sampledWheel (s.pinsAt w) (sampleResult w s) (s.qd.get w) := by
  simp [qdSample]

/-- The other wheel is untouched (R134). -/
theorem qdSample_other {u : Wheel} (h : u ≠ w) : (qdSample w s).qd.get u = s.qd.get u := by
  simp [qdSample, PerWheel.get_set_other _ _ h]

/-- A sample of both wheels: the decoder's two wheels, each sampled from the state before, and nothing else (R135). -/
theorem qdSampleBoth_eq : qdSampleBoth s =
    { s with qd := {
        left := sampledWheel (s.pinsAt .left) (sampleResult .left s) s.qd.left
        right := sampledWheel (s.pinsAt .right) (sampleResult .right s) s.qd.right } } := rfl

theorem qdZero_eq : qdZero s =
    { s with qd := { left := zeroedWheel s.qd.left, right := zeroedWheel s.qd.right } } := rfl

@[simp] theorem tachTick_port : (tachTick s).port = s.port := by unfold tachTick; dsimp only; split <;> rfl
@[simp] theorem tachTick_qd : (tachTick s).qd = s.qd := by unfold tachTick; dsimp only; split <;> rfl
@[simp] theorem tachTick_pid : (tachTick s).pid = s.pid := by unfold tachTick; dsimp only; split <;> rfl
@[simp] theorem tachTick_params : (tachTick s).params = s.params := by unfold tachTick; dsimp only; split <;> rfl
@[simp] theorem tachTick_events : (tachTick s).events = s.events := by unfold tachTick; dsimp only; split <;> rfl

/-- A tick changes the tachometer and nothing else (R163). -/
theorem tachTick_eq : tachTick s = s.setTach (tachTick s).tach := by
  unfold tachTick; dsimp only; split <;> rfl

/-- A tick below DIV counts (R163). -/
theorem tachTick_counts (h : s.tach.divcnt.toNat + 1 < s.tach.div.toNat) :
    (tachTick s).tach = { s.tach with divcnt := BitVec.ofNat 16 (s.tach.divcnt.toNat + 1) } := by
  unfold tachTick
  rw [if_neg (by omega)]
  rfl

/-- A tick that reaches DIV pushes (R163). -/
theorem tachTick_pushes (h : s.tach.div.toNat ≤ s.tach.divcnt.toNat + 1) :
    (tachTick s).tach = tachPush s.qd.left.pos s.qd.right.pos { s.tach with divcnt := 0#16 } := by
  unfold tachTick
  rw [if_pos h]
  rfl

end Frames

/-! ## The end of a command (R110, R113, R114) -/

theorem withSel_none {α : Type} (run : α → State → State) (s : State) : withSel none run s = cmdFail .badSel s := rfl

theorem withSel_some {α : Type} (x : α) (run : α → State → State) (s : State) :
    withSel (some x) run s = cmdDone (run x s) := rfl

theorem cmdFail_eq (e : CmdError) (s : State) :
    cmdFail e s = { s with port := { s.port with err := errCode e, sticky := true } } := rfl

theorem cmdDone_eq (s : State) : cmdDone s = { s with port := { s.port with err := 0#4 } } := rfl

theorem noSel?_cases (sel : BitVec 3) : (sel = 0#3 ∧ noSel? sel = some ()) ∨ (sel ≠ 0#3 ∧ noSel? sel = none) := by
  unfold noSel?
  by_cases h : sel = 0#3
  · exact .inl ⟨h, if_pos h⟩
  · exact .inr ⟨h, if_neg h⟩

/-- Every command either fails and changes STATUS alone, or runs one operation of R85 on an operand that exists and
sets STATUS.ERR to 0. -/
theorem runCommand_cases (op : CmdOp) (sel : BitVec 3) (s : State) :
    runCommand op sel s = cmdFail .badSel s ∨
    (sel = 0#3 ∧ op = .nop ∧ runCommand op sel s = cmdDone s) ∨
    (∃ w, op = .qdSample ∧ sel = BitVec.ofNat 3 (wheelNumber w) ∧
      runCommand op sel s = cmdDone (qdSampleToRes0 w s)) ∨
    (sel = 0#3 ∧ op = .qdSampleAll ∧ runCommand op sel s = cmdDone (qdSampleBoth s)) ∨
    (sel = 0#3 ∧ op = .qdReset ∧ runCommand op sel s = cmdDone (qdZero s)) ∨
    (sel = 0#3 ∧ op = .tachTick ∧ runCommand op sel s = cmdDone (tachTick s)) ∨
    (sel = 0#3 ∧ op = .tachCompute ∧ runCommand op sel s = cmdDone (tachCompute s)) ∨
    (∃ a, op = .pidUpdate ∧ axisPresent s.params.numPidAxes a ∧ sel = BitVec.ofNat 3 (axisNumber a) ∧
      runCommand op sel s = cmdDone (pidUpdate a s)) ∨
    (∃ a, op = .pidReset ∧ axisPresent s.params.numPidAxes a ∧ sel = BitVec.ofNat 3 (axisNumber a) ∧
      runCommand op sel s = cmdDone (pidClear a s)) := by
  cases op with
  | nop => by_cases h : sel = 0#3 <;> simp [runCommand, noSel?, withSel, h]
  | qdSampleAll => by_cases h : sel = 0#3 <;> simp [runCommand, noSel?, withSel, h]
  | qdReset => by_cases h : sel = 0#3 <;> simp [runCommand, noSel?, withSel, h]
  | tachTick => by_cases h : sel = 0#3 <;> simp [runCommand, noSel?, withSel, h]
  | tachCompute => by_cases h : sel = 0#3 <;> simp [runCommand, noSel?, withSel, h]
  | qdSample =>
    cases h : wheelOfSel? sel with
    | none => simp [runCommand, h, withSel]
    | some w => exact .inr (.inr (.inl ⟨w, rfl, wheelOfSel?_eq_some h, by simp [runCommand, h, withSel]⟩))
  | pidUpdate =>
    cases h : axisOf? s.params.numPidAxes sel with
    | none => simp [runCommand, h, withSel]
    | some a =>
      have ha := axisOf?_eq_some h
      exact .inr (.inr (.inr (.inr (.inr (.inr (.inr (.inl
        ⟨a, rfl, ha.1, ha.2, by simp [runCommand, h, withSel]⟩)))))))
  | pidReset =>
    cases h : axisOf? s.params.numPidAxes sel with
    | none => simp [runCommand, h, withSel]
    | some a =>
      have ha := axisOf?_eq_some h
      exact .inr (.inr (.inr (.inr (.inr (.inr (.inr (.inr
        ⟨a, rfl, ha.1, ha.2, by simp [runCommand, h, withSel]⟩)))))))

/-! ## PID registers (R199) -/

theorem pidRead_present {s : State} {a : Axis} (h : axisPresent s.params.numPidAxes a) (reg : PidAxis → Word) :
    pidRead (BitVec.ofNat 3 (axisNumber a)) reg s = reg (s.pid.get a) := by
  simp [pidRead, axisOf?_number h]

theorem pidRead_absent {s : State} {a : BitVec 3} (h : s.params.numPidAxes.count ≤ a.toNat) (reg : PidAxis → Word) :
    pidRead a reg s = 0#32 := by
  simp [pidRead, (axisOf?_eq_none_iff _ a).2 h]

theorem pidWrite_present {s : State} {a : Axis} (h : axisPresent s.params.numPidAxes a) (upd : PidAxis → PidAxis) :
    pidWrite (BitVec.ofNat 3 (axisNumber a)) upd s = s.setAxis a (upd (s.pid.get a)) := by
  simp [pidWrite, axisOf?_number h]

theorem pidWrite_absent {s : State} {a : BitVec 3} (h : s.params.numPidAxes.count ≤ a.toNat)
    (upd : PidAxis → PidAxis) : pidWrite a upd s = s := by
  simp [pidWrite, (axisOf?_eq_none_iff _ a).2 h]

/-- A PID register write changes one axis that exists, or nothing. -/
theorem pidWrite_cases (a : BitVec 3) (upd : PidAxis → PidAxis) (s : State) :
    pidWrite a upd s = s ∨ ∃ x, axisPresent s.params.numPidAxes x ∧ a = BitVec.ofNat 3 (axisNumber x) ∧
      pidWrite a upd s = s.setAxis x (upd (s.pid.get x)) := by
  cases h : axisOf? s.params.numPidAxes a with
  | none => simp [pidWrite, h]
  | some x =>
    have hx := axisOf?_eq_some h
    exact .inr ⟨x, hx.1, hx.2, by simp [pidWrite, h]⟩

/-- A legal axis stays legal through PID_UPDATE, which touches no configuration (R37). -/
theorem pidUpdateAxis_config (x : PidAxis) (m t : Int) :
    (pidUpdateAxis x m t).1.p = x.p ∧ (pidUpdateAxis x m t).1.i = x.i ∧ (pidUpdateAxis x m t).1.d = x.d ∧
    (pidUpdateAxis x m t).1.aw = x.aw ∧ (pidUpdateAxis x m t).1.maxout = x.maxout := ⟨rfl, rfl, rfl, rfl, rfl⟩

/-- A written AW is never negative (R195). -/
theorem awLegal_nonneg (v : Word) : 0 ≤ (awLegal v).toInt := by
  have h := sext32_bounds v
  have := sext32_bits32 (v := max 0 (sext32 v)) (by omega) (by omega)
  unfold awLegal
  rw [show (bits32 (max 0 (sext32 v))).toInt = sext32 (bits32 (max 0 (sext32 v))) from rfl, this]
  omega

/-- A written MAXOUT is in 0..100 (R196). -/
theorem maxoutLegal_bounds (v : Word) : 0 ≤ (maxoutLegal v).toInt ∧ (maxoutLegal v).toInt ≤ 100 := by
  have h := clamp_bounds (v := sext32 v) (lo := 0) (hi := Config.maxoutLimit) (by decide)
  have h100 : Config.maxoutLimit = 100 := rfl
  have := sext32_bits32 (v := clamp (sext32 v) 0 Config.maxoutLimit) (by omega) (by omega)
  unfold maxoutLegal
  rw [show (bits32 (clamp (sext32 v) 0 Config.maxoutLimit)).toInt = sext32 (bits32 (clamp (sext32 v) 0 Config.maxoutLimit)) from rfl, this]
  omega

theorem atLeastOne_pos (v : BitVec 16) : 1 ≤ (atLeastOne v).toNat := by
  unfold atLeastOne
  split
  · decide
  · rename_i h
    have : v.toNat ≠ 0 := fun h0 => h (BitVec.eq_of_toNat_eq (by simpa using h0))
    omega

/-- AW as stored, on the pattern: a pattern with the sign bit clear as it is, else 0 (R195). -/
theorem awLegal_eq (v : Word) : awLegal v = if v.toNat < 2 ^ 31 then v else 0#32 := by
  unfold awLegal sext32 bits32
  have := v.isLt
  split
  · rename_i h
    have : max 0 v.toInt = v.toInt := by rw [BitVec.toInt_eq_toNat_of_lt (by omega)]; omega
    rw [this]; simp
  · rename_i h
    have : max 0 v.toInt = 0 := by rw [BitVec.toInt_eq_toNat_cond]; split <;> omega
    rw [this]; rfl

/-- MAXOUT as stored, on the pattern (R196). -/
theorem maxoutLegal_eq (v : Word) :
    maxoutLegal v = if v.toNat < 2 ^ 31 then BitVec.ofNat 32 (min v.toNat 100) else 0#32 := by
  unfold maxoutLegal sext32 bits32 clamp
  have h100 : Config.maxoutLimit = 100 := rfl
  rw [h100]
  split
  · rename_i h
    have : min (max v.toInt 0) 100 = ((min v.toNat 100 : Nat) : Int) := by
      rw [BitVec.toInt_eq_toNat_of_lt (by omega)]; omega
    rw [this]; rfl
  · rename_i h
    have : min (max v.toInt 0) 100 = 0 := by
      have := v.isLt
      rw [BitVec.toInt_eq_toNat_cond]; split <;> omega
    rw [this]; rfl

/-! ## The tachometer's values -/

/-- A push writes one slot of each wheel (R162). -/
theorem tachPush_hist (posL posR : Word) (t : Tach) (w : Wheel) (k : Fin 17) :
    ((tachPush posL posR t).hist.get w)[k] =
      if k = t.idx then (match w with | .left => posL | .right => posR) else (t.hist.get w)[k] := by
  have key : ∀ (v : Vector Word 17) (x : Word), (v.set t.idx x)[k] = if k = t.idx then x else v[k] := by
    intro v x
    by_cases hk : k = t.idx
    · subst hk; simp
    · rw [if_neg hk]
      exact Vector.getElem_set_ne _ _ (fun h => hk (Fin.ext h.symm))
  cases w <;> exact key _ _

/-- The speed as one division toward zero, saturated (R167). -/
theorem speedOf_eq (t : Tach) (w : Wheel) :
    speedOf t w = max (-2147483647) (min 2147483647
      ((wrap32 (oldest t w - newest t w) * 1000).tdiv (t.periodMs.toNat * 16))) := by
  unfold speedOf
  simp only
  generalize wrap32 (oldest t w - newest t w) = d
  generalize t.periodMs.toNat = p
  have ht : (d * 1000).tdiv ((p : Int) * 16) = d.sign * ((d.natAbs * 1000 / (p * 16) : Nat) : Int) := by
    have := (truncDiv_eq_tdiv (d * 1000) (p * 16)).symm
    push_cast at this ⊢
    rw [this]
    unfold truncDiv
    rw [Int.sign_mul, Int.natAbs_mul, show Int.sign 1000 = 1 from rfl, mul_one]
    simp
  rw [ht]
  have hm : speedMagnitude d p = min (d.natAbs * 1000 / (p * 16)) (2 ^ 31 - 1) := rfl
  rw [hm]
  generalize d.natAbs * 1000 / (p * 16) = m
  rcases Int.lt_trichotomy d 0 with h | h | h
  · rw [Int.sign_eq_neg_one_of_neg h]; push_cast; omega
  · subst h; simp
  · rw [Int.sign_eq_one_of_pos h]; push_cast; omega

/-! ## What keeps the invariants of R41 -/

theorem errCode_legal (e : CmdError) : (errCode e).toNat ≤ 3 ∧ errCode e ≠ 0#4 := by cases e <;> decide

/-- Replacing one axis by a legal one keeps the bank legal. -/
theorem PidBank.Legal.set_axis {b : PidBank} (h : b.Legal) {a : Axis} {x : PidAxis}
    (hx : (b.get a).Legal → x.Legal) : (b.set a x).Legal := by
  obtain ⟨h1, h2, h3, h4, h5⟩ := h
  cases a
  · exact ⟨hx h1, h2, h3, h4, h5⟩
  · exact ⟨h1, hx h2, h3, h4, h5⟩
  · exact ⟨h1, h2, hx h3, h4, h5⟩
  · exact ⟨h1, h2, h3, hx h4, h5⟩
  · exact ⟨h1, h2, h3, h4, hx h5⟩

end Sys2Proof.Machine
end

