-- ==== Sys2Proof/Laws/PerInstr.lean ====
section
/-! SUPPORT. A fact about every instruction as an encoding, one lemma per constructor: an instruction's word is one the
host may send. A command word has its RSVD field 0 (R84, R87), an access has an offset that is a multiple of 4 (R61). -/

namespace Sys2Proof.Laws.EncodesLegally

/-- The word has no reserved bit set, or is an access to an aligned offset. -/
def legalWord : InstrWord → Bool
  | .cmd c => decide (rsvdField c = 0#21)
  | .mmioRead off => wordAligned off
  | .mmioWrite off _ => wordAligned off

/-- The instruction's word is legal in this sense. -/
def Statement (i : Instr) : Prop := legalWord (encode i) = true

theorem nop : Statement (.nop) := decide_eq_true (rsvdField_cmdWord 0x00#8 0#3)
theorem qdSample (sel : BitVec 3) : Statement (.qdSample sel) := decide_eq_true (rsvdField_cmdWord 0x01#8 sel)
theorem qdSampleAll : Statement (.qdSampleAll) := decide_eq_true (rsvdField_cmdWord 0x02#8 0#3)
theorem qdReset : Statement (.qdReset) := decide_eq_true (rsvdField_cmdWord 0x03#8 0#3)
theorem tachTick : Statement (.tachTick) := decide_eq_true (rsvdField_cmdWord 0x10#8 0#3)
theorem tachCompute : Statement (.tachCompute) := decide_eq_true (rsvdField_cmdWord 0x11#8 0#3)
theorem pidUpdate (sel : BitVec 3) : Statement (.pidUpdate sel) := decide_eq_true (rsvdField_cmdWord 0x20#8 sel)
theorem pidReset (sel : BitVec 3) : Statement (.pidReset sel) := decide_eq_true (rsvdField_cmdWord 0x21#8 sel)
theorem rdId : Statement (.rdId) := rfl
theorem rdParams : Statement (.rdParams) := rfl
theorem rdCmd : Statement (.rdCmd) := rfl
theorem wrCmd (c : Word) : Statement (.wrCmd c) := rfl
theorem rdStatus : Statement (.rdStatus) := rfl
theorem wrStatus (v : Word) : Statement (.wrStatus v) := rfl
theorem rdArg0 : Statement (.rdArg0) := rfl
theorem wrArg0 (v : Word) : Statement (.wrArg0 v) := rfl
theorem rdArg1 : Statement (.rdArg1) := rfl
theorem wrArg1 (v : Word) : Statement (.wrArg1 v) := rfl
theorem rdRes0 : Statement (.rdRes0) := rfl
theorem rdTachCtrl : Statement (.rdTachCtrl) := rfl
theorem wrTachCtrl (v : Word) : Statement (.wrTachCtrl v) := rfl
theorem rdQdPins : Statement (.rdQdPins) := rfl
theorem rdQdPrev : Statement (.rdQdPrev) := rfl
theorem rdTachState : Statement (.rdTachState) := rfl
theorem rdQdLast : Statement (.rdQdLast) := rfl
theorem rdPos (w : Wheel) : Statement (.rdPos w) := by cases w <;> rfl
theorem wrPos (w : Wheel) (v : Word) : Statement (.wrPos w v) := by cases w <;> rfl
theorem rdErr (w : Wheel) : Statement (.rdErr w) := by cases w <;> rfl
theorem rdSpeed (w : Wheel) : Statement (.rdSpeed w) := by cases w <;> rfl
theorem rdHist (w : Wheel) (k : BitVec 5) : Statement (.rdHist w k) := (histOffset_fields w k).1
theorem rdPidP (a : BitVec 3) : Statement (.rdPidP a) := (pidOffset_fields a 0#3).1
theorem wrPidP (a : BitVec 3) (v : Word) : Statement (.wrPidP a v) := (pidOffset_fields a 0#3).1
theorem rdPidI (a : BitVec 3) : Statement (.rdPidI a) := (pidOffset_fields a 1#3).1
theorem wrPidI (a : BitVec 3) (v : Word) : Statement (.wrPidI a v) := (pidOffset_fields a 1#3).1
theorem rdPidD (a : BitVec 3) : Statement (.rdPidD a) := (pidOffset_fields a 2#3).1
theorem wrPidD (a : BitVec 3) (v : Word) : Statement (.wrPidD a v) := (pidOffset_fields a 2#3).1
theorem rdPidAw (a : BitVec 3) : Statement (.rdPidAw a) := (pidOffset_fields a 3#3).1
theorem wrPidAw (a : BitVec 3) (v : Word) : Statement (.wrPidAw a v) := (pidOffset_fields a 3#3).1
theorem rdPidMaxout (a : BitVec 3) : Statement (.rdPidMaxout a) := (pidOffset_fields a 4#3).1
theorem wrPidMaxout (a : BitVec 3) (v : Word) : Statement (.wrPidMaxout a v) := (pidOffset_fields a 4#3).1
theorem rdPidLasterr (a : BitVec 3) : Statement (.rdPidLasterr a) := (pidOffset_fields a 5#3).1
theorem rdPidIntegral (a : BitVec 3) : Statement (.rdPidIntegral a) := (pidOffset_fields a 6#3).1
theorem wrId (v : Word) : Statement (.wrId v) := rfl
theorem wrParams (v : Word) : Statement (.wrParams v) := rfl
theorem wrRes0 (v : Word) : Statement (.wrRes0 v) := rfl
theorem wrQdPins (v : Word) : Statement (.wrQdPins v) := rfl
theorem wrQdPrev (v : Word) : Statement (.wrQdPrev v) := rfl
theorem wrTachState (v : Word) : Statement (.wrTachState v) := rfl
theorem wrQdLast (v : Word) : Statement (.wrQdLast v) := rfl
theorem wrErr (w : Wheel) (v : Word) : Statement (.wrErr w v) := by cases w <;> rfl
theorem wrSpeed (w : Wheel) (v : Word) : Statement (.wrSpeed w v) := by cases w <;> rfl
theorem wrHist (w : Wheel) (k : BitVec 5) (v : Word) : Statement (.wrHist w k v) := (histOffset_fields w k).1
theorem wrPidLasterr (a : BitVec 3) (v : Word) : Statement (.wrPidLasterr a v) := (pidOffset_fields a 5#3).1
theorem wrPidIntegral (a : BitVec 3) (v : Word) : Statement (.wrPidIntegral a v) := (pidOffset_fields a 6#3).1

end Sys2Proof.Laws.EncodesLegally
end

