-- ==== Sys2Proof/Laws/Step.lean ====
section
/-! SUPPORT. What one step can do, said once: inversion of a command word, of a register write, of a whole step.
Every whole-machine statement is a case analysis over `step_cases`. -/

namespace Sys2Proof.Machine

/-- A register read changes nothing but the reply (R65). -/
theorem readAt_eq (off : Offset) (s : State) : ∃ v, readAt off s = .next { s with reply := .data v } := by
  unfold readAt decode
  simp only
  split
  · rename_i i hi
    unfold decodeRead at hi
    split at hi
    · split at hi
      · unfold decodeLowRead at hi
        split at hi <;> first | (cases hi; exact ⟨_, rfl⟩) | cases hi
      · cases hi; exact ⟨_, rfl⟩
      · unfold decodePidRead at hi
        split at hi <;> first | (cases hi; exact ⟨_, rfl⟩) | cases hi
      · cases hi
    · cases hi
  · exact ⟨_, rfl⟩

/-- A register read does not depend on what was answered before (R65). -/
theorem readAt_reply (off : Offset) (s : State) (r : Reply) : readAt off { s with reply := r } = readAt off s := by
  unfold readAt decode
  simp only
  split
  · rename_i i hi
    unfold decodeRead at hi
    split at hi
    · split at hi
      · unfold decodeLowRead at hi
        split at hi <;> first | (cases hi; exact rfl) | cases hi
      · cases hi; exact rfl
      · unfold decodePidRead at hi
        split at hi <;> first | (cases hi; exact rfl) | cases hi
      · cases hi
    · cases hi
  · exact rfl

/-- The code of each operation, as a number (R85). -/
def opNumber : CmdOp → Nat
  | .nop => 0x00
  | .qdSample => 0x01
  | .qdSampleAll => 0x02
  | .qdReset => 0x03
  | .tachTick => 0x10
  | .tachCompute => 0x11
  | .pidUpdate => 0x20
  | .pidReset => 0x21

theorem opOf?_eq_some {op : BitVec 8} {k : CmdOp} (h : opOf? op = some k) : op.toNat = opNumber k := by
  unfold opOf? at h
  split at h <;> first | (cases h; rfl) | cases h

theorem opOf?_eq_none_iff (op : BitVec 8) :
    opOf? op = none ↔ op.toNat ∉ [0x00, 0x01, 0x02, 0x03, 0x10, 0x11, 0x20, 0x21] := by
  constructor
  · intro h
    unfold opOf? at h
    split at h <;> try cases h
    rename_i h0 h1 h2 h3 h4 h5 h6 h7
    intro hm
    have : op.toNat = 0x00 ∨ op.toNat = 0x01 ∨ op.toNat = 0x02 ∨ op.toNat = 0x03 ∨ op.toNat = 0x10 ∨ op.toNat = 0x11 ∨
        op.toNat = 0x20 ∨ op.toNat = 0x21 := by simpa using hm
    rcases this with h | h | h | h | h | h | h | h
    · exact h0 (BitVec.eq_of_toNat_eq h)
    · exact h1 (BitVec.eq_of_toNat_eq h)
    · exact h2 (BitVec.eq_of_toNat_eq h)
    · exact h3 (BitVec.eq_of_toNat_eq h)
    · exact h4 (BitVec.eq_of_toNat_eq h)
    · exact h5 (BitVec.eq_of_toNat_eq h)
    · exact h6 (BitVec.eq_of_toNat_eq h)
    · exact h7 (BitVec.eq_of_toNat_eq h)
  · intro h
    cases hk : opOf? op with
    | none => rfl
    | some k =>
      have := opOf?_eq_some hk
      cases k <;> simp_all [opNumber]

/-- A command word from its number: RSVD = 0, an OP and a SEL. -/
theorem command_word_eq {c : Word} {sel : BitVec 3} {op : Nat} (hr : rsvdField c = 0#21)
    (hop : (opField c).toNat = op) (hs : selField c = sel) : c = BitVec.ofNat 32 (op + 256 * sel.toNat) := by
  have hc := (rsvdField_eq_zero_iff c).1 hr
  have h1 := opField_toNat c
  have h2 := selField_toNat c
  rw [hs] at h2
  apply BitVec.eq_of_toNat_eq
  rw [BitVec.toNat_ofNat]
  omega

/-- What a CMD write can do (R110): fail and change STATUS alone, or run one command. -/
theorem dispatchCommand_cases (c : Word) (s : State) :
    (∃ e, dispatchCommand c s = cmdFail e s) ∨
    (c = 0x00000000#32 ∧ dispatchCommand c s = cmdDone s) ∨
    (∃ w, c = BitVec.ofNat 32 (0x001 + 256 * wheelNumber w) ∧ dispatchCommand c s = cmdDone (qdSampleToRes0 w s)) ∨
    (c = 0x00000002#32 ∧ dispatchCommand c s = cmdDone (qdSampleBoth s)) ∨
    (c = 0x00000003#32 ∧ dispatchCommand c s = cmdDone (qdZero s)) ∨
    (c = 0x00000010#32 ∧ dispatchCommand c s = cmdDone (tachTick s)) ∨
    (c = 0x00000011#32 ∧ dispatchCommand c s = cmdDone (tachCompute s)) ∨
    (∃ a, axisPresent s.params.numPidAxes a ∧ c = BitVec.ofNat 32 (0x020 + 256 * axisNumber a) ∧
      dispatchCommand c s = cmdDone (pidUpdate a s)) ∨
    (∃ a, axisPresent s.params.numPidAxes a ∧ c = BitVec.ofNat 32 (0x021 + 256 * axisNumber a) ∧
      dispatchCommand c s = cmdDone (pidClear a s)) := by
  by_cases hr : rsvdField c = 0#21
  · cases hk : opOf? (opField c) with
    | none => exact .inl ⟨.illegalOp, by simp [dispatchCommand, hr, hk]⟩
    | some k =>
      have hd : dispatchCommand c s = runCommand k (selField c) s := by simp [dispatchCommand, hr, hk]
      have hop := opOf?_eq_some hk
      rw [hd]
      rcases runCommand_cases k (selField c) s with h | ⟨hs, rfl, h⟩ | ⟨w, rfl, hs, h⟩ | ⟨hs, rfl, h⟩ | ⟨hs, rfl, h⟩ |
        ⟨hs, rfl, h⟩ | ⟨hs, rfl, h⟩ | ⟨a, rfl, ha, hs, h⟩ | ⟨a, rfl, ha, hs, h⟩
      · exact .inl ⟨_, h⟩
      · exact .inr (.inl ⟨command_word_eq hr hop hs, h⟩)
      · refine .inr (.inr (.inl ⟨w, ?_, h⟩))
        rw [command_word_eq hr hop hs]; cases w <;> rfl
      · exact .inr (.inr (.inr (.inl ⟨command_word_eq hr hop hs, h⟩)))
      · exact .inr (.inr (.inr (.inr (.inl ⟨command_word_eq hr hop hs, h⟩))))
      · exact .inr (.inr (.inr (.inr (.inr (.inl ⟨command_word_eq hr hop hs, h⟩)))))
      · exact .inr (.inr (.inr (.inr (.inr (.inr (.inl ⟨command_word_eq hr hop hs, h⟩))))))
      · refine .inr (.inr (.inr (.inr (.inr (.inr (.inr (.inl ⟨a, ha, ?_, h⟩)))))))
        rw [command_word_eq hr hop hs]; cases a <;> rfl
      · refine .inr (.inr (.inr (.inr (.inr (.inr (.inr (.inr ⟨a, ha, ?_, h⟩)))))))
        rw [command_word_eq hr hop hs]; cases a <;> rfl
  · exact .inl ⟨.rsvdBits, by simp [dispatchCommand, hr]⟩

/-- The offset of a PID register from its fields (R82). -/
theorem pid_offset_eq {off : Offset} {a r : BitVec 3} (hal : wordAligned off = true) (hb : off.extractLsb' 8 4 = 2#4)
    (ha : pidAxisField off = a) (hr : pidRegField off = r) :
    off.toNat = 0x200 + 0x20 * a.toNat + 4 * r.toNat := by
  have h4 := (wordAligned_iff off).1 hal
  have hlt := off.isLt
  have h1 : off.toNat / 256 = 2 := by
    have := congrArg BitVec.toNat hb
    simp [BitVec.extractLsb'_toNat, Nat.shiftRight_eq_div_pow] at this
    omega
  have h2 : off.toNat / 32 % 8 = a.toNat := by
    have := congrArg BitVec.toNat ha
    simpa [pidAxisField, BitVec.extractLsb'_toNat, Nat.shiftRight_eq_div_pow] using this
  have h3 : off.toNat / 4 % 8 = r.toNat := by
    have := congrArg BitVec.toNat hr
    simpa [pidRegField, BitVec.extractLsb'_toNat, Nat.shiftRight_eq_div_pow] using this
  omega

/-- What a write to one PID register can do (R194 to R196). -/
def PidWrite (off : Offset) (v : Word) (s t : State) : Prop :=
  ∃ a, axisPresent s.params.numPidAxes a ∧
    ∃ r x, off.toNat = 0x200 + 0x20 * axisNumber a + 4 * r ∧ r ≤ 4 ∧
      t = s.setAxis a x ∧ x.lasterr = (s.pid.get a).lasterr ∧ x.integral = (s.pid.get a).integral ∧
      ((s.pid.get a).Legal → x.Legal) ∧
      x = match r with
        | 0 => { s.pid.get a with p := v }
        | 1 => { s.pid.get a with i := v }
        | 2 => { s.pid.get a with d := v }
        | 3 => { s.pid.get a with aw := awLegal v }
        | _ => { s.pid.get a with maxout := maxoutLegal v }

theorem axisNumber_toNat (a : Axis) : (BitVec.ofNat 3 (axisNumber a)).toNat = axisNumber a := by cases a <;> rfl

/-- What a legal register write can do: nothing, or the one effect of the register at its offset. -/
theorem writeAt_cases (off : Offset) (v : Word) (s : State) :
    ∃ t, writeAt off v s = .next { t with reply := .ok } ∧
    (t = s ∨
     (off.toNat = 0x008 ∧ t = dispatchCommand v s) ∨
     (off.toNat = 0x00C ∧ t = s.setPort (statusWrite v s.port)) ∨
     (off.toNat = 0x010 ∧ t = s.setPort { s.port with arg0 := v }) ∨
     (off.toNat = 0x014 ∧ t = s.setPort { s.port with arg1 := v }) ∨
     (off.toNat = 0x01C ∧ t = s.setTach (tachConfigure v s.tach)) ∨
     (∃ w, off.toNat = 0x040 + 4 * wheelNumber w ∧ t = s.setWheel w { s.qd.get w with pos := v }) ∨
     PidWrite off v s t) := by
  unfold writeAt decode
  simp only
  split
  · rename_i i hi
    unfold decodeWrite at hi
    split at hi
    · rename_i hal
      split at hi
      · unfold decodeLowWrite at hi
        split at hi <;> first
          | (cases hi; exact ⟨s, rfl, .inl rfl⟩)
          | (cases hi; exact ⟨_, rfl, .inr (.inl ⟨rfl, rfl⟩)⟩)
          | (cases hi; exact ⟨_, rfl, .inr (.inr (.inl ⟨rfl, rfl⟩))⟩)
          | (cases hi; exact ⟨_, rfl, .inr (.inr (.inr (.inl ⟨rfl, rfl⟩)))⟩)
          | (cases hi; exact ⟨_, rfl, .inr (.inr (.inr (.inr (.inl ⟨rfl, rfl⟩))))⟩)
          | (cases hi; exact ⟨_, rfl, .inr (.inr (.inr (.inr (.inr (.inl ⟨rfl, rfl⟩)))))⟩)
          | (cases hi; exact ⟨_, rfl, .inr (.inr (.inr (.inr (.inr (.inr (.inl ⟨.left, rfl, rfl⟩))))))⟩)
          | (cases hi; exact ⟨_, rfl, .inr (.inr (.inr (.inr (.inr (.inr (.inl ⟨.right, rfl, rfl⟩))))))⟩)
          | cases hi
      · cases hi; exact ⟨s, rfl, .inl rfl⟩
      · rename_i hb
        have key : ∀ (a r : BitVec 3) (upd : PidAxis → PidAxis), pidAxisField off = a → pidRegField off = r →
            r.toNat ≤ 4 → (∀ x, (upd x).lasterr = x.lasterr ∧ (upd x).integral = x.integral ∧ (x.Legal → (upd x).Legal)) →
            (∀ x, upd x = match r.toNat with
              | 0 => { x with p := v }
              | 1 => { x with i := v }
              | 2 => { x with d := v }
              | 3 => { x with aw := awLegal v }
              | _ => { x with maxout := maxoutLegal v }) →
            pidWrite a upd s = s ∨ PidWrite off v s (pidWrite a upd s) := by
          intro a r upd ha hr hle hupd hform
          rcases pidWrite_cases a upd s with h | ⟨x, hx, hax, h⟩
          · exact .inl h
          · have hoff := pid_offset_eq hal hb ha hr
            rw [hax, axisNumber_toNat] at hoff
            exact .inr ⟨x, hx, r.toNat, _, hoff, hle, h, (hupd _).1, (hupd _).2.1, (hupd _).2.2, hform _⟩
        have pack : ∀ t : State, (t = s ∨ PidWrite off v s t) → (t = s ∨
             (off.toNat = 0x008 ∧ t = dispatchCommand v s) ∨
             (off.toNat = 0x00C ∧ t = s.setPort (statusWrite v s.port)) ∨
             (off.toNat = 0x010 ∧ t = s.setPort { s.port with arg0 := v }) ∨
             (off.toNat = 0x014 ∧ t = s.setPort { s.port with arg1 := v }) ∨
             (off.toNat = 0x01C ∧ t = s.setTach (tachConfigure v s.tach)) ∨
             (∃ w, off.toNat = 0x040 + 4 * wheelNumber w ∧ t = s.setWheel w { s.qd.get w with pos := v }) ∨
             PidWrite off v s t) := by
          rintro t (h | h)
          · exact .inl h
          · exact .inr (.inr (.inr (.inr (.inr (.inr (.inr h))))))
        unfold decodePidWrite at hi
        split at hi
        · rename_i hr; cases hi
          exact ⟨_, rfl, pack _ (key _ _ (fun x => { x with p := v }) rfl hr (by decide)
            (fun x => ⟨rfl, rfl, id⟩) (fun x => rfl))⟩
        · rename_i hr; cases hi
          exact ⟨_, rfl, pack _ (key _ _ (fun x => { x with i := v }) rfl hr (by decide)
            (fun x => ⟨rfl, rfl, id⟩) (fun x => rfl))⟩
        · rename_i hr; cases hi
          exact ⟨_, rfl, pack _ (key _ _ (fun x => { x with d := v }) rfl hr (by decide)
            (fun x => ⟨rfl, rfl, id⟩) (fun x => rfl))⟩
        · rename_i hr; cases hi
          exact ⟨_, rfl, pack _ (key _ _ (fun x => { x with aw := awLegal v }) rfl hr (by decide)
            (fun x => ⟨rfl, rfl, fun hx => ⟨awLegal_nonneg v, hx.2⟩⟩) (fun x => rfl))⟩
        · rename_i hr; cases hi
          exact ⟨_, rfl, pack _ (key _ _ (fun x => { x with maxout := maxoutLegal v }) rfl hr (by decide)
            (fun x => ⟨rfl, rfl, fun hx => ⟨hx.1, maxoutLegal_bounds v⟩⟩) (fun x => rfl))⟩
        · cases hi; exact ⟨s, rfl, .inl rfl⟩
        · cases hi; exact ⟨s, rfl, .inl rfl⟩
        · cases hi
      · cases hi
    · cases hi
  · exact ⟨s, rfl, .inl rfl⟩

/-- What one step that goes on can have done. -/
theorem step_cases {s t : State} (h : step s = .next t) :
    (s.events = [] ∧ t = s) ∨
    (∃ pins rest, s.events = .reset pins :: rest ∧ t = { resetWith pins s with events := rest }) ∨
    (∃ pins rest, s.events = .strobe pins :: rest ∧
      t = { qdSampleBoth s with events := rest, reply := .none }) ∨
    (∃ rest, s.events = .tick :: rest ∧ t = { tachTick s with events := rest, reply := .none }) ∨
    (∃ e rest reply, s.events = e :: rest ∧ t = { s with events := rest, reply := reply }) ∨
    (∃ pins v rest, ∃ off : Offset, off.toNat % 4 = 0 ∧
      s.events = .hostWrite pins (s.params.qtpBase + off.toNat) 4 v :: rest ∧
      endEvent rest (writeAt off v s) = .next t) := by
  cases he : s.events with
  | nil => rw [step_idle he] at h; cases h; exact .inl ⟨rfl, rfl⟩
  | cons e rest =>
    cases e with
    | reset pins => rw [step_reset he] at h; cases h; exact .inr (.inl ⟨pins, rest, rfl, rfl⟩)
    | strobe pins => rw [step_strobe he] at h; cases h; exact .inr (.inr (.inl ⟨pins, rest, rfl, rfl⟩))
    | tick => rw [step_tick he] at h; cases h; exact .inr (.inr (.inr (.inl ⟨rest, rfl, rfl⟩)))
    | hostRead pins addr size =>
      rw [step_hostRead he] at h
      rcases hostAccess_cases addr size readAt s with ⟨_, hk⟩ | ⟨_, _, _, hk⟩ | ⟨off, _, _, _, hk⟩
      · rw [hk] at h; cases h
        exact .inr (.inr (.inr (.inr (.inl ⟨_, rest, .none, rfl, rfl⟩))))
      · rw [hk] at h; cases h
      · obtain ⟨v, hv⟩ := readAt_eq off s
        rw [hk, hv] at h; cases h
        exact .inr (.inr (.inr (.inr (.inl ⟨_, rest, .data v, rfl, rfl⟩))))
    | hostWrite pins addr size v =>
      rw [step_hostWrite he] at h
      rcases hostAccess_cases addr size (fun off => writeAt off v) s with ⟨_, hk⟩ | ⟨_, _, _, hk⟩ | ⟨off, ha, hs, hal, hk⟩
      · rw [hk] at h; cases h
        exact .inr (.inr (.inr (.inr (.inl ⟨_, rest, .none, rfl, rfl⟩))))
      · rw [hk] at h; cases h
      · rw [hk] at h
        subst ha hs
        exact .inr (.inr (.inr (.inr (.inr ⟨pins, v, rest, off, hal, rfl, h⟩))))

/-- A step goes on, or the next event raises BusError; it never answers a refusal. -/
theorem step_outcome (s : State) : (∃ t, step s = .next t) ∨ ∃ off, step s = .fault (.busError off) := by
  cases he : s.events with
  | nil => exact .inl ⟨_, step_idle he⟩
  | cons e rest =>
    cases e with
    | reset pins => exact .inl ⟨_, step_reset he⟩
    | strobe pins => exact .inl ⟨_, step_strobe he⟩
    | tick => exact .inl ⟨_, step_tick he⟩
    | hostRead pins addr size =>
      rw [step_hostRead he]
      rcases hostAccess_cases addr size readAt s with ⟨_, hk⟩ | ⟨o, _, _, hk⟩ | ⟨o, _, _, _, hk⟩
      · exact .inl ⟨_, by rw [hk]; rfl⟩
      · exact .inr ⟨o, by rw [hk]; rfl⟩
      · obtain ⟨v, hv⟩ := readAt_eq o s
        exact .inl ⟨_, by rw [hk, hv]; rfl⟩
    | hostWrite pins addr size v =>
      rw [step_hostWrite he]
      rcases hostAccess_cases addr size (fun o => writeAt o v) s with ⟨_, hk⟩ | ⟨o, _, _, hk⟩ | ⟨o, _, _, _, hk⟩
      · exact .inl ⟨_, by rw [hk]; rfl⟩
      · exact .inr ⟨o, by rw [hk]; rfl⟩
      · obtain ⟨u, hv, _⟩ := writeAt_cases o v s
        exact .inl ⟨_, by rw [hk, hv]; rfl⟩

/-- Two steps in a row. -/
theorem run_two {s t u : State} (h : step s = .next t) (h' : step t = .next u) : Host.Core.run core 2 s = .next u := by
  have h1 : core.step s = .next t := h
  have h2 : core.step t = .next u := h'
  simp only [Host.Core.run, h1, h2]

/-! ## Register rules from their two facts: how the offset decodes and what the instruction does -/

theorem decodeRead_aligned {off : Offset} {i : Instr} (h : decode (.mmioRead off) = .instr i) : off.toNat % 4 = 0 := by
  simp only [decode, decodeRead] at h
  split at h
  · rename_i ha; exact (wordAligned_iff off).1 ha
  · cases h

theorem decodeWrite_aligned {off : Offset} {v : Word} {i : Instr} (h : decode (.mmioWrite off v) = .instr i) :
    off.toNat % 4 = 0 := by
  simp only [decode, decodeWrite] at h
  split at h
  · rename_i ha; exact (wordAligned_iff off).1 ha
  · cases h

/-- A legal 4-byte read is the read of its offset. -/
theorem step_read_legal {s : State} {pins : Pins} {off : Offset} {rest : List Event} (h4 : off.toNat % 4 = 0)
    (he : s.events = .hostRead pins (s.params.qtpBase + off.toNat) 4 :: rest) :
    step s = endEvent rest (readAt off s) := by
  rw [step_hostRead he]
  rw [hostAccess_legal h4]

/-- A legal 4-byte write is the write to its offset. -/
theorem step_write_legal {s : State} {pins : Pins} {off : Offset} {v : Word} {rest : List Event}
    (h4 : off.toNat % 4 = 0) (he : s.events = .hostWrite pins (s.params.qtpBase + off.toNat) 4 v :: rest) :
    step s = endEvent rest (writeAt off v s) := by
  rw [step_hostWrite he]
  rw [hostAccess_legal h4]

theorem ReadRule.intro {off : Offset} {i : Instr} {val : State → Word} (hd : decode (.mmioRead off) = .instr i)
    (hx : ∀ s, exec i s = .next { s with reply := .data (val s) }) : ReadRule off i val := by
  refine ⟨hd, hx, fun s pins rest he => ?_, fun s pins rest size hs he => ?_⟩
  · rw [step_read_legal (decodeRead_aligned hd) he]
    simp only [readAt, hd, hx, endEvent_next]
  · rw [step_hostRead he]
    rw [hostAccess_illegal (.inl hs)]; rfl

theorem WriteRule.intro {off : Offset} {i : Word → Instr} {eff : Word → State → State}
    (hd : ∀ v, decode (.mmioWrite off v) = .instr (i v))
    (hx : ∀ v s, exec (i v) s = .next { eff v s with reply := .ok }) : WriteRule off i eff := by
  refine ⟨hd, hx, fun s pins v rest he => ?_, fun s pins v rest size hs he => ?_⟩
  · rw [step_write_legal (decodeWrite_aligned (hd v)) he]
    simp only [writeAt, hd, hx, endEvent_next]
  · rw [step_hostWrite he]
    rw [hostAccess_illegal (.inl hs)]; rfl

end Sys2Proof.Machine
end

