-- ==== Sys2Proof/Tests/Slice0.lean ====
section
/-! SUPPORT. Tests and witnesses. The words decoded are written out from 30_encoding.md (R81 to R88), the expected values of the
steps are the vectors of 95_test_vectors.md (Q, T, PD, E: the vector's name stands in the theorem's name). The witnesses show,
for each obligation with hypotheses, a state and operands that meet them together. -/

namespace Sys2Proof.Tests

open Machine

/-! ## Small states and single events -/

/-- Pins from the two channel states, written c1c2 (left, right). -/
def pins (l r : BitVec 2) : Pins :=
  { left := { c1 := l.getLsbD 1, c2 := l.getLsbD 0 }, right := { c1 := r.getLsbD 1, c2 := r.getLsbD 0 } }

/-- A QTP after Reset with a window at 0x1000 and events to come. -/
def sys (n : NumPidAxes) (g : QdSign) (es : List Event) : State :=
  { State.reset with params := { numPidAxes := n, qdSign := g, basePage := 1 }, events := es }

/-- The default QTP of the vectors. -/
abbrev z : State := sys .five .plus []

/-- A 4-byte host write, a 4-byte host read, a command, all with the pins low. -/
abbrev wr (off : Nat) (v : Word) : Event := .hostWrite (pins 0 0) (0x1000 + off) 4 v
abbrev rd (off : Nat) : Event := .hostRead (pins 0 0) (0x1000 + off) 4
abbrev cmd (c : Word) : Event := wr 0x008 c

/-- The state after a step that goes on. -/
def after (s : State) : State :=
  match step s with
  | .next t => t
  | .fault _ => s
  | .refused _ => s

/-- The state after one event. -/
def on (s : State) (e : Event) : State := after { s with events := [e] }

/-- What one read answers. -/
def get (s : State) (off : Nat) : Reply := (on s (rd off)).reply

/-- One wheel with its last seen state, position and error count. -/
def wheel (p : BitVec 2) (pos err : Word) : QdWheel := { prev := p, pos := pos, errcnt := err, last := .zero }

/-- The default QTP with a given left wheel. -/
def zl (p : BitVec 2) (pos err : Word) : State := z.setWheel .left (wheel p pos err)

/-- A STATUS value put into a state. -/
def status (e : BitVec 4) (k : Bool) (s : State) : State := s.setPort { s.port with err := e, sticky := k }

/-- An axis from its five configuration registers and its state. -/
def axis (p i d aw mx le it : Int) : PidAxis :=
  { p := bits32 p, i := bits32 i, d := bits32 d, aw := bits32 aw, maxout := bits32 mx, lasterr := bits32 le,
    integral := bits32 it }

/-- The default QTP with axis 0 and the two operands set. -/
def za (x : PidAxis) (m t : Int) : State :=
  (z.setAxis .leftSpeed x).setPort { z.port with arg0 := bits32 m, arg1 := bits32 t }

/-- The default QTP with IDX = 0, PERIOD_MS, and the left wheel's oldest and newest entries set. -/
def zt (period : BitVec 16) (oldest newest : Word) : State :=
  z.setTach { z.tach with
    periodMs := period
    hist := { z.tach.hist with left := (z.tach.hist.left.set 0 oldest).set 16 newest } }

/-! ## Well-formedness: one ill-formed term for each check, which the check refuses -/

theorem test_wf_sel : wellFormed .five (.qdSample 2#3) = false ∧ wellFormed .five (.qdSample 1#3) = true ∧
    wellFormed .five (.pidUpdate 5#3) = false ∧ wellFormed .four (.pidUpdate 4#3) = false ∧
    wellFormed .five (.pidUpdate 4#3) = true ∧ wellFormed .five (.pidReset 5#3) = false ∧
    wellFormed .four (.pidReset 4#3) = false := by decide

theorem test_wf_slot : wellFormed .five (.rdHist .left 17#5) = false ∧ wellFormed .five (.rdHist .right 16#5) = true ∧
    wellFormed .five (.wrHist .right 31#5 0#32) = false := by decide

theorem test_wf_axis_reads : ∀ i ∈ [Instr.rdPidP 5#3, .rdPidI 5#3, .rdPidD 6#3, .rdPidAw 7#3, .rdPidMaxout 5#3,
    .rdPidLasterr 6#3, .rdPidIntegral 7#3], wellFormed .five i = false := by decide

theorem test_wf_axis_writes : ∀ i ∈ [Instr.wrPidP 4#3 0#32, .wrPidI 4#3 0#32, .wrPidD 4#3 0#32, .wrPidAw 4#3 0#32,
    .wrPidMaxout 4#3 0#32, .wrPidLasterr 4#3 0#32, .wrPidIntegral 4#3 0#32], wellFormed .four i = false := by decide

/-! ## Decoding: a word for every constructor -/

theorem test_decode_commands :
    decode (.cmd 0x00000000#32) = .instr .nop ∧ decode (.cmd 0x00000101#32) = .instr (.qdSample 1#3) ∧
    decode (.cmd 0x00000002#32) = .instr .qdSampleAll ∧ decode (.cmd 0x00000003#32) = .instr .qdReset ∧
    decode (.cmd 0x00000010#32) = .instr .tachTick ∧ decode (.cmd 0x00000011#32) = .instr .tachCompute ∧
    decode (.cmd 0x00000320#32) = .instr (.pidUpdate 3#3) ∧ decode (.cmd 0x00000421#32) = .instr (.pidReset 4#3) := by
  decide

theorem test_decode_port_reads :
    decode (.mmioRead 0x000#12) = .instr .rdId ∧ decode (.mmioRead 0x004#12) = .instr .rdParams ∧
    decode (.mmioRead 0x008#12) = .instr .rdCmd ∧ decode (.mmioRead 0x00C#12) = .instr .rdStatus ∧
    decode (.mmioRead 0x010#12) = .instr .rdArg0 ∧ decode (.mmioRead 0x014#12) = .instr .rdArg1 ∧
    decode (.mmioRead 0x018#12) = .instr .rdRes0 := by decide

theorem test_decode_port_writes :
    decode (.mmioWrite 0x000#12 7#32) = .instr (.wrId 7#32) ∧ decode (.mmioWrite 0x004#12 7#32) = .instr (.wrParams 7#32) ∧
    decode (.mmioWrite 0x008#12 7#32) = .instr (.wrCmd 7#32) ∧ decode (.mmioWrite 0x00C#12 7#32) = .instr (.wrStatus 7#32) ∧
    decode (.mmioWrite 0x010#12 7#32) = .instr (.wrArg0 7#32) ∧ decode (.mmioWrite 0x014#12 7#32) = .instr (.wrArg1 7#32) ∧
    decode (.mmioWrite 0x018#12 7#32) = .instr (.wrRes0 7#32) := by decide

theorem test_decode_qd_reads :
    decode (.mmioRead 0x020#12) = .instr .rdQdPins ∧ decode (.mmioRead 0x024#12) = .instr .rdQdPrev ∧
    decode (.mmioRead 0x02C#12) = .instr .rdQdLast ∧ decode (.mmioRead 0x040#12) = .instr (.rdPos .left) ∧
    decode (.mmioRead 0x044#12) = .instr (.rdPos .right) ∧ decode (.mmioRead 0x048#12) = .instr (.rdErr .left) ∧
    decode (.mmioRead 0x04C#12) = .instr (.rdErr .right) := by decide

theorem test_decode_qd_writes :
    decode (.mmioWrite 0x020#12 7#32) = .instr (.wrQdPins 7#32) ∧ decode (.mmioWrite 0x024#12 7#32) = .instr (.wrQdPrev 7#32) ∧
    decode (.mmioWrite 0x02C#12 7#32) = .instr (.wrQdLast 7#32) ∧
    decode (.mmioWrite 0x044#12 7#32) = .instr (.wrPos .right 7#32) ∧
    decode (.mmioWrite 0x048#12 7#32) = .instr (.wrErr .left 7#32) := by decide

theorem test_decode_tach :
    decode (.mmioRead 0x01C#12) = .instr .rdTachCtrl ∧ decode (.mmioRead 0x028#12) = .instr .rdTachState ∧
    decode (.mmioRead 0x050#12) = .instr (.rdSpeed .left) ∧ decode (.mmioRead 0x13C#12) = .instr (.rdHist .left 15#5) ∧
    decode (.mmioRead 0x180#12) = .instr (.rdHist .right 0#5) ∧
    decode (.mmioWrite 0x01C#12 7#32) = .instr (.wrTachCtrl 7#32) ∧
    decode (.mmioWrite 0x028#12 7#32) = .instr (.wrTachState 7#32) ∧
    decode (.mmioWrite 0x054#12 7#32) = .instr (.wrSpeed .right 7#32) ∧
    decode (.mmioWrite 0x1C0#12 7#32) = .instr (.wrHist .right 16#5 7#32) := by decide

theorem test_decode_pid_reads :
    decode (.mmioRead 0x200#12) = .instr (.rdPidP 0#3) ∧ decode (.mmioRead 0x224#12) = .instr (.rdPidI 1#3) ∧
    decode (.mmioRead 0x248#12) = .instr (.rdPidD 2#3) ∧ decode (.mmioRead 0x26C#12) = .instr (.rdPidAw 3#3) ∧
    decode (.mmioRead 0x290#12) = .instr (.rdPidMaxout 4#3) ∧ decode (.mmioRead 0x214#12) = .instr (.rdPidLasterr 0#3) ∧
    decode (.mmioRead 0x238#12) = .instr (.rdPidIntegral 1#3) := by decide

theorem test_decode_pid_writes :
    decode (.mmioWrite 0x240#12 7#32) = .instr (.wrPidP 2#3 7#32) ∧ decode (.mmioWrite 0x264#12 7#32) = .instr (.wrPidI 3#3 7#32) ∧
    decode (.mmioWrite 0x288#12 7#32) = .instr (.wrPidD 4#3 7#32) ∧ decode (.mmioWrite 0x20C#12 7#32) = .instr (.wrPidAw 0#3 7#32) ∧
    decode (.mmioWrite 0x230#12 7#32) = .instr (.wrPidMaxout 1#3 7#32) ∧
    decode (.mmioWrite 0x254#12 7#32) = .instr (.wrPidLasterr 2#3 7#32) ∧
    decode (.mmioWrite 0x278#12 7#32) = .instr (.wrPidIntegral 3#3 7#32) := by decide

theorem test_decode_rejects :
    decode (.cmd 0x0000FFFF#32) = .rejected (.command .rsvdBits) ∧ decode (.cmd 0x000007FF#32) = .rejected (.command .illegalOp) ∧
    decode (.cmd 0x00000700#32) = .rejected (.command .badSel) ∧ decode (.mmioRead 0x042#12) = .rejected .misaligned ∧
    decode (.mmioRead 0x030#12) = .rejected .unmapped ∧ decode (.mmioRead 0x21C#12) = .rejected .unmapped ∧
    decode (.mmioWrite 0x300#12 5#32) = .rejected .unmapped := by decide

theorem test_encode_words :
    encode (.pidUpdate 4#3) = .cmd 0x00000420#32 ∧ encode (.rdHist .right 16#5) = .mmioRead 0x1C0#12 ∧
    encode (.wrPidAw 2#3 9#32) = .mmioWrite 0x24C#12 9#32 ∧ encode (.wrPos .right 1#32) = .mmioWrite 0x044#12 1#32 := by decide

theorem test_table_words :
    decodeTableWord 32 0x00000420 = some (.pidUpdate 4#3) ∧ decodeTableWord 16 0x054 = some (.rdSpeed .right) ∧
    decodeTableWord 16 0x218 = some (.rdPidIntegral 0#3) ∧ decodeTableWord 32 0x00000800 = none := by decide

/-- A fetched table word runs as the first instruction after reset. -/
theorem test_fetch_word :
    (after (State.reset.withFetchWord 32 0x00000011)).reply = .ok ∧
    (after (State.reset.withFetchWord 16 0x000)).reply = .data 0x51545007#32 := by decide

/-! ## Command port (E1 to E24) -/

theorem test_E1_E2_nop : (on z (cmd 0x000000FF#32)).port = { z.port with err := 2#4, sticky := true } ∧
    get (status 2#4 true z) 0x00C = .data 0x102#32 ∧
    (on (status 2#4 true z) (cmd 0x00000000#32)).port = { z.port with err := 0#4, sticky := true } := by decide

theorem test_E3_E4_E15_wrStatus :
    (on (status 0#4 true z) (wr 0x00C 0x100#32)).port = z.port ∧
    (on (status 2#4 true z) (wr 0x00C 0x100#32)).port = { z.port with err := 2#4, sticky := false } ∧
    (on (status 2#4 true z) (wr 0x00C 0x00F#32)).port = { z.port with err := 2#4, sticky := true } := by decide

/-- STATUS after a failing word: STICKY and the code. -/
def errOf (c : Word) : Bool × BitVec 4 := let t := on z (cmd c); (t.port.sticky, t.port.err)

theorem test_E5_to_E14_wrCmd :
    errOf 0x00000501#32 = (true, 3#4) ∧ errOf 0x00000201#32 = (true, 3#4) ∧ errOf 0x00000800#32 = (true, 1#4) ∧
    errOf 0x0000FFFF#32 = (true, 1#4) ∧ errOf 0x000007FF#32 = (true, 2#4) ∧ errOf 0x00000004#32 = (true, 2#4) ∧
    errOf 0x80000010#32 = (true, 1#4) ∧ errOf 0x00000110#32 = (true, 3#4) ∧ errOf 0x00000700#32 = (true, 3#4) := by decide

theorem test_E5_E12_E14_nothing_else :
    on z (cmd 0x00000501#32) = { status 3#4 true z with reply := .ok } ∧
    on z (cmd 0x00000110#32) = { status 3#4 true z with reply := .ok } ∧
    on z (cmd 0x00000520#32) = { status 3#4 true z with reply := .ok } := by decide

theorem test_E16_E17_E18_constants : get z 0x008 = .data 0#32 ∧ get z 0x000 = .data 0x51545007#32 ∧
    get z 0x004 = .data 0x00005211#32 ∧ get (sys .four .plus []) 0x004 = .data 0x00004211#32 ∧
    on z (wr 0x000 7#32) = { z with reply := .ok } := by decide

theorem test_E19_unmapped : get z 0x300 = .data 0#32 ∧ on z (wr 0x300 5#32) = { z with reply := .ok } ∧
    get z 0xFFC = .data 0#32 := by decide

theorem test_E20_E21_E22_bus_error :
    step { z with events := [.hostRead (pins 0 0) 0x1040 1] } = .fault (.busError 0x040#12) ∧
    step { z with events := [.hostRead (pins 0 0) 0x1042 4] } = .fault (.busError 0x042#12) ∧
    step { z with events := [.hostWrite (pins 0 0) 0x1008 2 3#32] } = .fault (.busError 0x008#12) := ⟨rfl, rfl, rfl⟩

theorem test_E23_args : (on z (wr 0x010 0xFFFFFFFF#32)).port = { z.port with arg0 := 0xFFFFFFFF#32 } ∧
    (on z (wr 0x014 6#32)).port = { z.port with arg1 := 6#32 } ∧
    get (za (axis 0 0 0 0 0 0 0) (-1) 6) 0x010 = .data 0xFFFFFFFF#32 ∧
    get (za (axis 0 0 0 0 0 0 0) (-1) 6) 0x014 = .data 6#32 := by decide

theorem test_E24_res0 : get (z.setPort { z.port with res0 := 5#32 }) 0x018 = .data 5#32 ∧
    (on (z.setPort { z.port with res0 := 5#32 }) (wr 0x018 9#32)).port.res0 = 5#32 := by decide

theorem test_ignored_port_and_observation_writes : ∀ off ∈ [0x004, 0x020, 0x024, 0x028, 0x02C],
    on z (wr off 0xFFFFFFFF#32) = { z with reply := .ok } := by decide

/-! ## Quadrature decoder (Q1 to Q31) -/

/-- The left wheel after a QD_SAMPLE from PREV = p at the pins n, and RES0. -/
def sample (g : QdSign) (p n : BitVec 2) (pos err : Word) : QdWheel × Word :=
  let t := on ((sys .five g []).setWheel .left (wheel p pos err)) (.hostWrite (pins n 0) 0x1008 4 0x00000001#32)
  (t.qd.left, t.port.res0)

/-- p, n, POS_L, ERR_L, RES0, LAST[0] as the table gives them. -/
theorem test_Q1_to_Q16 : ∀ x ∈ [
      (0b00#2, 0b00#2, 10#32, 0#32, 0x00000000#32, SampleResult.zero), (0b00#2, 0b01#2, 11#32, 0#32, 0x00000001#32, .plusOne),
      (0b00#2, 0b10#2, 9#32, 0#32, 0xFFFFFFFF#32, .minusOne), (0b00#2, 0b11#2, 10#32, 1#32, 0x80000000#32, .error),
      (0b01#2, 0b00#2, 9#32, 0#32, 0xFFFFFFFF#32, .minusOne), (0b01#2, 0b01#2, 10#32, 0#32, 0x00000000#32, .zero),
      (0b01#2, 0b10#2, 10#32, 1#32, 0x80000000#32, .error), (0b01#2, 0b11#2, 11#32, 0#32, 0x00000001#32, .plusOne),
      (0b10#2, 0b00#2, 11#32, 0#32, 0x00000001#32, .plusOne), (0b10#2, 0b01#2, 10#32, 1#32, 0x80000000#32, .error),
      (0b10#2, 0b10#2, 10#32, 0#32, 0x00000000#32, .zero), (0b10#2, 0b11#2, 9#32, 0#32, 0xFFFFFFFF#32, .minusOne),
      (0b11#2, 0b00#2, 10#32, 1#32, 0x80000000#32, .error), (0b11#2, 0b01#2, 9#32, 0#32, 0xFFFFFFFF#32, .minusOne),
      (0b11#2, 0b10#2, 11#32, 0#32, 0x00000001#32, .plusOne), (0b11#2, 0b11#2, 10#32, 0#32, 0x00000000#32, .zero)],
    sample .plus x.1 x.2.1 10#32 0#32 =
      ({ prev := x.2.1, pos := x.2.2.1, errcnt := x.2.2.2.1, last := x.2.2.2.2.2 }, x.2.2.2.2.1) := by decide

theorem test_Q2_Q3_Q4_sign_minus_and_Q17_Q18_Q19 :
    (sample .minus 0b00#2 0b01#2 10#32 0#32).1.pos = 9#32 ∧ (sample .minus 0b00#2 0b10#2 10#32 0#32).2 = 0x00000001#32 ∧
    (sample .minus 0b00#2 0b11#2 10#32 0#32).2 = 0x80000000#32 ∧
    (sample .plus 0b00#2 0b01#2 0x7FFFFFFF#32 0#32).1.pos = 0x80000000#32 ∧
    (sample .plus 0b00#2 0b10#2 0x80000000#32 0#32).1.pos = 0x7FFFFFFF#32 ∧
    (sample .plus 0b00#2 0b11#2 5#32 0xFFFFFFFF#32).1.errcnt = 0xFFFFFFFF#32 := by decide

theorem test_Q20_qdReset :
    (on { z with qd := { left := wheel 0b01#2 57#32 2#32, right := wheel 0b10#2 (-3#32) 0#32 } } (cmd 0x00000003#32)).qd =
      { left := wheel 0b01#2 0#32 0#32, right := wheel 0b10#2 0#32 0#32 } := by decide

theorem test_Q21_Q22_pos : (on z (wr 0x040 1234#32)).qd.left = wheel 0b00#2 0x000004D2#32 0#32 ∧
    get (zl 0b00#2 1234#32 0#32) 0x040 = .data 0x000004D2#32 ∧
    get (z.setWheel .right (wheel 0b00#2 (bits32 (-600)) 0#32)) 0x044 = .data 0xFFFFFDA8#32 := by decide

theorem test_Q23_qdSampleAll :
    let t := on z (.hostWrite (pins 0b01#2 0b10#2) 0x1008 4 0x00000002#32)
    t.qd.left.pos = 1#32 ∧ t.qd.right.pos = 0xFFFFFFFF#32 ∧ t.port = z.port ∧ get t 0x02C = .data 0x0000000D#32 := by decide

theorem test_Q24_strobe :
    let t := on (status 3#4 true z) (.strobe (pins 0b01#2 0b10#2))
    t.qd.left.pos = 1#32 ∧ t.qd.right.pos = 0xFFFFFFFF#32 ∧ get t 0x00C = .data 0x103#32 := by decide

theorem test_Q25_other_wheel : (on z (.hostWrite (pins 0b01#2 0b01#2) 0x1008 4 0x00000001#32)).qd.right = z.qd.right := by
  decide

theorem test_Q27_rdQdPins :
    on z (.hostRead (pins 0b11#2 0b01#2) 0x1020 4) = { z with reply := .data 0x00000007#32 } := by
  decide

theorem test_Q28_Q29_observation :
    get (z.setWheel .left (wheel 0b10#2 0#32 0#32)) 0x024 = .data 0x00000002#32 ∧
    get { z with qd := { left := { z.qd.left with last := .error }, right := { z.qd.right with last := .minusOne } } } 0x02C =
      .data 0x0000000E#32 := by decide

theorem test_Q30_err : get (zl 0b00#2 0#32 5#32) 0x048 = .data 5#32 ∧
    (on (zl 0b00#2 0#32 5#32) (wr 0x048 0#32)).qd.left.errcnt = 5#32 := by decide

theorem test_Q31_reset : get (on (zl 0b00#2 9#32 9#32) (.reset (pins 0b11#2 0b01#2))) 0x024 = .data 0x00000007#32 := by decide

/-! ## Tachometer (T1 to T23) -/

/-- The left speed after TACH_COMPUTE. -/
def speed (period : BitVec 16) (oldest newest : Word) : Word :=
  (on (zt period oldest newest) (cmd 0x00000011#32)).tach.speed.left

theorem test_T1_to_T6_tachCompute :
    speed 5#16 0#32 800#32 = 0xFFFFD8F0#32 ∧ speed 5#16 800#32 0#32 = 0x00002710#32 ∧
    speed 5#16 0#32 1#32 = 0xFFFFFFF4#32 ∧ speed 5#16 0#32 0xFFFFFFFF#32 = 0x0000000C#32 ∧
    speed 5#16 77#32 77#32 = 0#32 ∧ speed 5#16 0x7FFFFFF0#32 0x80000010#32 = 0xFFFFFE70#32 := by decide

theorem test_T7_to_T11_tachCompute :
    speed 5#16 0#32 0x7FFFFFFF#32 = 0x80000001#32 ∧ speed 5#16 0#32 0x80000000#32 = 0x80000001#32 ∧
    speed 5#16 0#32 80#32 = 0xFFFFFC18#32 ∧ speed 1#16 0#32 16#32 = 0xFFFFFC18#32 ∧
    speed 65535#16 0#32 0x7FFFFFFF#32 = 0xFFE0BFE1#32 := by decide

theorem test_T12_T15_T16_tachCtrl : get z 0x01C = .data 0x00050005#32 ∧ get z 0x028 = .data 0#32 ∧
    (on (z.setTach { z.tach with divcnt := 3#16 }) (wr 0x01C 0x00050005#32)).tach = z.tach ∧
    get (on z (wr 0x01C 0#32)) 0x01C = .data 0x00010001#32 := by decide

theorem test_T13_T14_tachTick :
    get (on (z.setTach { z.tach with divcnt := 3#16 }) (cmd 0x00000010#32)) 0x028 = .data 0x00040000#32 ∧
    get (on (z.setTach { z.tach with divcnt := 4#16 }) (cmd 0x00000010#32)) 0x028 = .data 0x00000001#32 := by decide

theorem test_T17_push :
    let t := on ((zl 0b00#2 800#32 0#32).setTach { z.tach with div := 1#16, idx := 16 }) (cmd 0x00000010#32)
    t.tach.hist.left[16] = 800#32 ∧ t.tach.hist.left[15] = 0#32 ∧ t.tach.hist.right[16] = 0#32 ∧ t.tach.idx = 0 := by decide

theorem test_T20_T22_speed :
    let s := z.setTach { z.tach with div := 1#16, speed := { left := 0xFFFFD8F0#32, right := 0#32 } }
    on s (wr 0x050 5#32) = { s with reply := .ok } ∧ get s 0x050 = .data 0xFFFFD8F0#32 ∧
    (on s (cmd 0x00000010#32)).tach.speed = s.tach.speed := by decide

theorem test_T21_hist :
    let s := z.setTach { z.tach with hist := { z.tach.hist with left := z.tach.hist.left.set 0 7#32 } }
    get s 0x100 = .data 7#32 ∧ on s (wr 0x100 9#32) = { s with reply := .ok } ∧ get s 0x144 = .data 0#32 := by decide

theorem test_T23_tick :
    let t := on (status 2#4 true (z.setTach { z.tach with div := 1#16 })) .tick
    get t 0x028 = .data 0x00000001#32 ∧ get t 0x00C = .data 0x102#32 := by decide

/-! ## PID (PD1 to PD23) -/

/-- RES0, LASTERR and INTEGRAL of axis 0 after PID_UPDATE. -/
def update (x : PidAxis) (m t : Int) : Int × Int × Int :=
  let u := on (za x m t) (cmd 0x00000020#32)
  (sext32 u.port.res0, sext32 u.pid.leftSpeed.lasterr, sext32 u.pid.leftSpeed.integral)

theorem test_PD1_to_PD9_pidUpdate :
    update (axis 200 10 50 1000 100 0 0) 0 100 = (100, 100, 100) ∧
    update (axis 200 10 50 1000 100 100 100) 50 100 = (90, 50, 150) ∧
    update (axis 200 10 50 1000 100 50 150) 120 100 = (-62, -20, 130) ∧
    update (axis 1 0 0 0 100 0 0) 150 0 = (-1, -150, 0) ∧
    update (axis 1 0 0 0 100 0 0) 0 199 = (1, 199, 0) ∧
    update (axis 200 10 50 1000 0 0 0) 0 100 = (0, 100, 100) ∧
    update (axis 200 10 50 1000 100 600 600) 0 600 = (100, 600, 1000) := by decide

theorem test_PD10_to_PD13_pidUpdate :
    update (axis 200 10 50 1000 100 0 0) (-2147483648) 2147483647 = (100, 2147483647, 1000) ∧
    update (axis 200 10 50 1000 100 0 0) 2147483647 (-2147483648) = (-100, -2147483648, -1000) ∧
    update (axis (-2147483648) 0 (-2147483648) 0 100 0 0) 2147483647 (-2147483648) = (100, -2147483648, 0) ∧
    update (axis 200 10 50 0 100 0 0) 0 100 = (100, 100, 0) ∧
    update (axis 200 10 50 1000 100 100 100) 0 100 = (100, 100, 200) := by decide

theorem test_PD14_pidReset :
    (on (za (axis 200 10 50 1000 100 (-20) 130) 1 2) (cmd 0x00000021#32)).pid.leftSpeed = axis 200 10 50 1000 100 0 0 := by
  decide

theorem test_PD15_PD16_warl :
    (on z (wr 0x20C (bits32 (-5)))).pid.leftSpeed.aw = 0#32 ∧ (on z (wr 0x230 250#32)).pid.rightSpeed.maxout = 100#32 ∧
    (on z (wr 0x230 (bits32 (-3)))).pid.rightSpeed.maxout = 0#32 := by decide

theorem test_PD17_PD21_gains :
    (on z (wr 0x200 200#32)).pid.leftSpeed.p = 200#32 ∧ (on z (wr 0x280 7#32)).pid.line.p = 7#32 ∧
    (on z (wr 0x204 8#32)).pid.leftSpeed.i = 8#32 ∧ (on z (wr 0x208 9#32)).pid.leftSpeed.d = 9#32 := by decide

theorem test_PD18_aw_keeps_integral :
    (on (za (axis 0 0 0 1000 0 0 1000) 0 0) (wr 0x20C 10#32)).pid.leftSpeed = axis 0 0 0 10 0 0 1000 ∧
    update (axis 0 0 0 10 0 0 1000) 0 0 = (0, 0, 10) := by decide

theorem test_PD19_state_registers :
    let s := za (axis 1 2 3 4 5 100 99) 0 0
    on s (wr 0x214 5#32) = { s with reply := .ok } ∧ on s (wr 0x218 5#32) = { s with reply := .ok } ∧
    get s 0x214 = .data 100#32 ∧ get s 0x218 = .data 99#32 := by decide

theorem test_pid_config_reads :
    let s := za (axis 1 2 3 4 5 100 99) 0 0
    get s 0x200 = .data 1#32 ∧ get s 0x204 = .data 2#32 ∧ get s 0x208 = .data 3#32 ∧ get s 0x20C = .data 4#32 ∧
    get s 0x210 = .data 5#32 := by decide

theorem test_PD20_PD22_absent :
    (on (sys .four .plus []) (cmd 0x00000420#32)).port = { z.port with err := 3#4, sticky := true } ∧
    get (sys .four .plus []) 0x280 = .data 0#32 ∧ on (sys .four .plus []) (wr 0x280 7#32) = { sys .four .plus [] with reply := .ok } ∧
    get z 0x21C = .data 0#32 ∧ get z 0x2A0 = .data 0#32 := by decide

/-! ## Witnesses: for each obligation with hypotheses, a state and operands that meet them together

Where a statement has several clauses, one witness for each, at a value where clauses meet. `s₄` has four axes, `s₅` five. -/

/-- The default QTP before one event, and the same with four axes. -/
abbrev s₅ (e : Event) : State := sys .five .plus [e]
abbrev s₄ (e : Event) : State := sys .four .plus [e]

theorem writesNext_wr (n : NumPidAxes) (g : QdSign) (off : Nat) (v : Word) (es : List Event) :
    (sys n g (wr off v :: es)).WritesNext off v := ⟨pins 0 0, es, rfl⟩

/-- A Strobe is no command, no register write and no Reset. -/
theorem strobe_excludes (n : NumPidAxes) (g : QdSign) (p : Pins) :
    (∀ off v, ¬ (sys n g [.strobe p]).WritesNext off v) ∧ ¬ (sys n g [.strobe p]).ResetNext :=
  ⟨fun _ _ ⟨_, _, h⟩ => by simp [sys] at h, fun ⟨_, _, h⟩ => by simp [sys] at h⟩

theorem witness_EncodeInvertsDecode :
    decode (.mmioWrite 0x298#12 0xFFFFFFFF#32) = .instr (.wrPidIntegral 4#3 0xFFFFFFFF#32) ∧
    decode (.cmd 0x00000720#32) = .instr (.pidUpdate 7#3) := by decide

theorem witness_WellFormedCommandsRun :
    (decode (.cmd 0x00000420#32) = .instr (.pidUpdate 4#3) ∧ wellFormed z.params.numPidAxes (.pidUpdate 4#3) = true) ∧
    (decode (.cmd 0x00000420#32) = .instr (.pidUpdate 4#3) ∧
      wellFormed (sys .four .plus []).params.numPidAxes (.pidUpdate 4#3) = false) := by decide

theorem witness_StepRunsDecodedInstruction :
    ((s₅ (rd 0x054)).events = .hostRead (pins 0 0) (z.params.qtpBase + (0x054#12).toNat) 4 :: [] ∧
      decode (.mmioRead 0x054#12) = .instr (.rdSpeed .right)) ∧
    ((s₅ (wr 0x040 9#32)).events = .hostWrite (pins 0 0) (z.params.qtpBase + (0x040#12).toNat) 4 9#32 :: [] ∧
      decode (.mmioWrite 0x040#12 9#32) = .instr (.wrPos .left 9#32)) ∧
    ((s₅ (cmd 3#32)).events = .hostWrite (pins 0 0) (z.params.qtpBase + 0x008) 4 3#32 :: [] ∧
      decode (.cmd 3#32) = .instr .qdReset) := by decide

theorem witness_BusErrorExactly :
    (s₅ (.hostRead (pins 0 0) 0x1042 4)).BusErrorNext 0x042#12 ∧
    (s₅ (.hostWrite (pins 0 0) 0x1FFC 2 1#32)).BusErrorNext 0xFFC#12 :=
  ⟨⟨pins 0 0, 0x1042, 4, [], ⟨rfl, .inr (by decide)⟩, .inl rfl⟩,
    ⟨pins 0 0, 0x1FFC, 2, [], ⟨rfl, .inl (by decide)⟩, .inr ⟨1#32, rfl⟩⟩⟩

theorem witness_StepTakesOneEvent : step (s₅ .tick) = .next (after (s₅ .tick)) ∧ z.events = [] := ⟨rfl, rfl⟩

theorem witness_SafeStepGoesOn : (s₅ (rd 0x040)).SafeStep := by
  rintro off ⟨p, a, n, r, ⟨ha, hl⟩, h | ⟨v, h⟩⟩
  · have h : Event.hostRead (pins 0 0) 0x1040 4 = .hostRead p a n := (List.cons.inj h).1
    cases h
    have : (0x1040 : Nat) = 0x1000 + off.toNat := ha
    omega
  · cases (List.cons.inj h).1

theorem witness_OutsideWindowDoesNothing :
    (0x0FFF < z.params.qtpBase ∧ (s₅ (.hostRead (pins 0 0) 0x0FFF 4)).events = .hostRead (pins 0 0) 0x0FFF 4 :: []) ∧
    (z.params.qtpBase + 4096 ≤ 0x2000 ∧
      (s₅ (.hostWrite (pins 0 0) 0x2000 4 1#32)).events = .hostWrite (pins 0 0) 0x2000 4 1#32 :: []) := by decide

theorem witness_UnmappedOffsetsReadZero : ∀ off ∈ [0x21C#12, 0x144#12, 0x1C4#12, 0x280#12, 0x058#12, 0x300#12, 0xFFC#12],
    off.toNat % 4 = 0 ∧ ¬ MappedOffset (sys .four .plus []).params.numPidAxes.count off.toNat ∧
    (s₄ (rd off.toNat)).events = .hostRead (pins 0 0) (z.params.qtpBase + off.toNat) 4 :: [] ∧
    (s₄ (wr off.toNat 5#32)).events = .hostWrite (pins 0 0) (z.params.qtpBase + off.toNat) 4 5#32 :: [] := by
  intro off h
  have hn : ¬ MappedOffset 4 off.toNat := by
    simp only [List.mem_cons, List.not_mem_nil, or_false] at h
    rintro (hl | ⟨k, hk, hk'⟩ | ⟨a, r, ha, hr, ho⟩)
    · rcases h with rfl | rfl | rfl | rfl | rfl | rfl | rfl <;> simp at hl
    · rcases h with rfl | rfl | rfl | rfl | rfl | rfl | rfl <;> simp at hk' <;> omega
    · rcases h with rfl | rfl | rfl | rfl | rfl | rfl | rfl <;> simp at ho <;> omega
  refine ⟨?_, hn, rfl, rfl⟩
  clear hn
  revert off; decide

/-- The hypotheses inside a `ReadRule` and a `WriteRule`, so of every register statement: a 4-byte access and accesses of other
sizes. -/
theorem witness_register_rules :
    (s₅ (rd 0x00C)).events = .hostRead (pins 0 0) (z.params.qtpBase + (0x00C#12).toNat) 4 :: [] ∧
    (s₅ (.hostRead (pins 0 0) 0x100C 8)).events = .hostRead (pins 0 0) (z.params.qtpBase + (0x00C#12).toNat) 8 :: [] ∧
    (s₅ (wr 0x00C 1#32)).events = .hostWrite (pins 0 0) (z.params.qtpBase + (0x00C#12).toNat) 4 1#32 :: [] ∧
    (s₅ (.hostWrite (pins 0 0) 0x100C 0 1#32)).events =
      .hostWrite (pins 0 0) (z.params.qtpBase + (0x00C#12).toNat) 0 1#32 :: [] := by decide

theorem witness_ReadsHaveNoSideEffect :
    ((s₅ (rd 0x1FC)).events = .hostRead (pins 0 0) 0x11FC 4 :: [] ∧ step (s₅ (rd 0x1FC)) = .next (after (s₅ (rd 0x1FC)))) ∧
    ((s₅ (rd 0x1000)).events = .hostRead (pins 0 0) 0x2000 4 :: [] ∧
      step (s₅ (rd 0x1000)) = .next (after (s₅ (rd 0x1000)))) := ⟨⟨rfl, rfl⟩, ⟨rfl, rfl⟩⟩

theorem witness_StepKeepsInvariants :
    (s₄ (wr 0x20C 0xFFFFFFFB#32)).Inv ∧ step (s₄ (wr 0x20C 0xFFFFFFFB#32)) = .next (after (s₄ (wr 0x20C 0xFFFFFFFB#32))) :=
  ⟨by decide, rfl⟩

theorem witness_ResetEventResetsEverything :
    (s₅ (.reset (pins 0b11#2 0b01#2))).events = .reset (pins 0b11#2 0b01#2) :: [] := rfl

theorem witness_RestingWheelCountsNothing :
    (sys .five .plus [.reset (pins 0b11#2 0b01#2), .hostWrite (pins 0b11#2 0b01#2) 0x1008 4 0x00000101#32]).events =
      .reset (pins 0b11#2 0b01#2) :: .hostWrite (pins 0b11#2 0b01#2) (z.params.qtpBase + 0x008) 4
        (BitVec.ofNat 32 (0x001 + 256 * wheelNumber .right)) :: [] := rfl

/-- One word for each clause, at the edges of the ranges. -/
theorem witness_CommandDispatch :
    2048 ≤ (0x00000800#32).toNat ∧
    ((0x000007FF#32).toNat < 2048 ∧
      (0x000007FF#32).toNat % 256 ∉ [0x00, 0x01, 0x02, 0x03, 0x10, 0x11, 0x20, 0x21]) ∧
    ((0x00000420#32).toNat < 2048 ∧
      (0x00000420#32).toNat % 256 ∈ [0x00, 0x01, 0x02, 0x03, 0x10, 0x11, 0x20, 0x21] ∧
      ¬ SelLegal (sys .four .plus []).params.numPidAxes.count ((0x00000420#32).toNat % 256) ((0x00000420#32).toNat / 256)) ∧
    ((0x00000420#32).toNat < 2048 ∧
      SelLegal z.params.numPidAxes.count ((0x00000420#32).toNat % 256) ((0x00000420#32).toNat / 256)) ∧
    (s₅ (cmd 0x420#32)).events = .hostWrite (pins 0 0) (z.params.qtpBase + 0x008) 4 0x420#32 :: [] ∧
    (s₅ (.hostWrite (pins 0 0) 0x1008 2 3#32)).events = .hostWrite (pins 0 0) (z.params.qtpBase + 0x008) 2 3#32 :: [] := by
  refine ⟨by decide, by decide, ⟨by decide, by decide, ?_⟩, ⟨by decide, ?_⟩, rfl, rfl⟩
  · rintro (⟨h, -⟩ | ⟨-, h⟩ | ⟨h, -⟩) <;> revert h <;> decide
  · exact .inr (.inl ⟨by decide, by decide⟩)

/-- STICKY set by a failing command, cleared by a STATUS write, cleared by Reset. -/
theorem witness_StatusRegister :
    (step (s₅ (cmd 0xFF#32)) = .next (after (s₅ (cmd 0xFF#32))) ∧ (s₅ (cmd 0xFF#32)).port.sticky = false ∧
      (after (s₅ (cmd 0xFF#32))).port.sticky = true ∧ (after (s₅ (cmd 0xFF#32))).port.err ≠ (s₅ (cmd 0xFF#32)).port.err) ∧
    (step (status 2#4 true (s₅ (wr 0x00C 0x100#32))) = .next (after (status 2#4 true (s₅ (wr 0x00C 0x100#32)))) ∧
      (status 2#4 true (s₅ (wr 0x00C 0x100#32))).port.sticky = true ∧
      (after (status 2#4 true (s₅ (wr 0x00C 0x100#32)))).port.sticky = false) ∧
    (step (status 2#4 true (s₅ (.reset (pins 0 0)))) = .next (after (status 2#4 true (s₅ (.reset (pins 0 0))))) ∧
      (after (status 2#4 true (s₅ (.reset (pins 0 0))))).port.sticky = false) :=
  ⟨⟨rfl, rfl, rfl, by decide⟩, ⟨rfl, rfl, rfl⟩, ⟨rfl, rfl⟩⟩

/-- ARG0 and ARG1 written by the host, RES0 by a QD_SAMPLE. -/
theorem witness_OperandRegisters :
    (step (s₅ (wr 0x010 7#32)) = .next (after (s₅ (wr 0x010 7#32))) ∧
      (after (s₅ (wr 0x010 7#32))).port.arg0 ≠ (s₅ (wr 0x010 7#32)).port.arg0) ∧
    (step (s₅ (wr 0x014 7#32)) = .next (after (s₅ (wr 0x014 7#32))) ∧
      (after (s₅ (wr 0x014 7#32))).port.arg1 ≠ (s₅ (wr 0x014 7#32)).port.arg1) ∧
    (step (s₅ (.hostWrite (pins 1 0) 0x1008 4 1#32)) = .next (after (s₅ (.hostWrite (pins 1 0) 0x1008 4 1#32))) ∧
      (after (s₅ (.hostWrite (pins 1 0) 0x1008 4 1#32))).port.res0 ≠ z.port.res0) :=
  ⟨⟨rfl, by decide⟩, ⟨rfl, by decide⟩, ⟨rfl, by decide⟩⟩

/-- The failing words of the statements of the eight commands (NopClearsErrOnly, QdSampleOneWheel, QdSampleAllBothWheels, QdResetZeroesCounters,
TachTickCountsAndPushes, TachComputeWritesSpeeds, PidUpdateOneAxis, PidResetOneAxis): the first SEL that is not legal, and the lowest
reserved bit. -/
theorem witness_failing_commands :
    (∀ c ∈ [0x00000100#32, 0x00000102#32, 0x00000103#32, 0x00000110#32, 0x00000111#32], 256 ≤ c.toNat ∧ c.toNat < 2048 ∧
      c.toNat % 256 ∈ [0x00, 0x02, 0x03, 0x10, 0x11]) ∧
    (∀ c ∈ [0x00000800#32, 0x00000801#32, 0x00000802#32, 0x00000803#32, 0x00000810#32, 0x00000811#32, 0x00000820#32, 0x00000821#32],
      2048 ≤ c.toNat ∧ c.toNat % 256 ∈ [0x00, 0x01, 0x02, 0x03, 0x10, 0x11, 0x20, 0x21]) ∧
    2 ≤ (2#3).toNat ∧ (sys .four .plus []).params.numPidAxes.count ≤ (4#3).toNat ∧
    z.params.numPidAxes.count ≤ (5#3).toNat := ⟨by simp, by simp, by decide, by decide, by decide⟩

theorem witness_SampleOrderUnobservable : ∃ t u a : State, Wheel.right ≠ Wheel.left ∧
    exec (.qdSample (BitVec.ofNat 3 (wheelNumber .right))) (s₅ (.strobe (pins 1 2))) = .next t ∧
    exec (.qdSample (BitVec.ofNat 3 (wheelNumber .left))) t = .next u ∧
    exec .qdSampleAll (s₅ (.strobe (pins 1 2))) = .next a := ⟨_, _, _, by decide, rfl, rfl, rfl⟩

theorem witness_StrobeSamplesBothWheels : (s₅ (.strobe (pins 1 2))).events = .strobe (pins 1 2) :: [] := rfl

theorem witness_SignalErrorAbsorbed : ∀ w, channelNow (s₅ (.strobe (pins 3 3))) w =
    ~~~((s₅ (.strobe (pins 3 3))).qd.get w).prev := by
  intro w; cases w <;> decide

/-- Two, three and four steps missed, by a left wheel last seen in 00. -/
theorem witness_MissedEdges :
    channelOf ((pins 0b11#2 0).get .left) = grayNext (grayNext (z.qd.get .left).prev) ∧
    channelOf ((pins 0b10#2 0).get .left) = grayNext (grayNext (grayNext (z.qd.get .left).prev)) ∧
    channelOf ((pins 0b00#2 0).get .left) = grayNext (grayNext (grayNext (grayNext (z.qd.get .left).prev))) := by decide

/-- QdResetZeroesCounters and PositionRegisters: a command or a write, then a read. -/
theorem witness_two_accesses :
    (sys .five .plus [cmd 0x00000003#32, rd 0x044]).events = .hostWrite (pins 0 0) (z.params.qtpBase + 0x008) 4 0x00000003#32 ::
      .hostRead (pins 0 0) (z.params.qtpBase + (0x040 + 4 * wheelNumber .right)) 4 :: [] ∧
    (sys .five .plus [wr 0x044 1234#32, rd 0x044]).events =
      .hostWrite (pins 0 0) (z.params.qtpBase + (0x040 + 4 * wheelNumber .right)) 4 1234#32 ::
      .hostRead (pins 0 0) (z.params.qtpBase + (0x040 + 4 * wheelNumber .right)) 4 :: [] := ⟨rfl, rfl⟩

theorem witness_ErrorCountRegisters : step (s₅ (.strobe (pins 3 0))) = .next (after (s₅ (.strobe (pins 3 0)))) ∧
    ¬ (s₅ (.strobe (pins 3 0))).CommandNext 0x00000003#32 ∧ ¬ (s₅ (.strobe (pins 3 0))).ResetNext :=
  ⟨rfl, (strobe_excludes _ _ _).1 _ _, (strobe_excludes _ _ _).2⟩

theorem witness_PositionMovesByOneStep : step (s₅ (.strobe (pins 1 0))) = .next (after (s₅ (.strobe (pins 1 0)))) ∧
    ¬ (s₅ (.strobe (pins 1 0))).ResetNext ∧ ¬ (s₅ (.strobe (pins 1 0))).CommandNext 0x00000003#32 ∧
    ∀ v, ¬ (s₅ (.strobe (pins 1 0))).WritesNext (0x040 + 4 * wheelNumber .left) v :=
  ⟨rfl, (strobe_excludes _ _ _).2, (strobe_excludes _ _ _).1 _ _, fun _ => (strobe_excludes _ _ _).1 _ _⟩

theorem witness_SamplesWritePrevAndLast : step (s₅ (.strobe (pins 1 0))) = .next (after (s₅ (.strobe (pins 1 0)))) ∧
    ((after (s₅ (.strobe (pins 1 0)))).qd.get .left).prev ≠ ((s₅ (.strobe (pins 1 0))).qd.get .left).prev ∧
    ((after (s₅ (.strobe (pins 1 0)))).qd.get .left).last ≠ ((s₅ (.strobe (pins 1 0))).qd.get .left).last :=
  ⟨rfl, by decide, by decide⟩

/-- Below DIV by one, and on reaching it: the two cases of a tick. -/
theorem witness_Ticked : (3#16).toNat + 1 < (5#16).toNat ∧ (5#16).toNat ≤ (4#16).toNat + 1 := by decide

theorem witness_TickEventCountsAndPushes : (s₅ .tick).events = .tick :: [] := rfl

theorem witness_PushAgesTheHistory :
    let s := (s₅ .tick).setTach { z.tach with divcnt := 4#16, idx := 16 }
    s.TickNext ∧ step s = .next (after s) ∧ s.tach.div.toNat ≤ s.tach.divcnt.toNat + 1 :=
  ⟨⟨[], rfl⟩, rfl, by decide⟩

theorem witness_TachComputeWritesSpeeds : 1 ≤ (zt 1#16 0#32 0x80000000#32).tach.periodMs.toNat := by decide

/-- The largest S that fits, and a rise across the wrap of POS (vector T6's numbers). -/
theorem witness_RisingPositionGivesNegativeSpeed : ∃ t u : State,
    (exec .tachCompute (zt 1#16 0#32 2147483#32) = .next t ∧ 1 ≤ (zt 1#16 0#32 2147483#32).tach.periodMs.toNat ∧
      2147483 * 1000 < 2 ^ 31 ∧ entryOfAge (zt 1#16 0#32 2147483#32).tach .left 0 =
        entryOfAge (zt 1#16 0#32 2147483#32).tach .left 16 + BitVec.ofNat 32 2147483) ∧
    (exec .tachCompute (zt 5#16 0x7FFFFFF0#32 0x80000010#32) = .next u ∧ 32 * 1000 < 2 ^ 31 ∧
      entryOfAge (zt 5#16 0x7FFFFFF0#32 0x80000010#32).tach .left 0 =
        entryOfAge (zt 5#16 0x7FFFFFF0#32 0x80000010#32).tach .left 16 + BitVec.ofNat 32 32) :=
  ⟨_, _, ⟨rfl, by decide, by decide, by decide⟩, ⟨rfl, by decide, by decide⟩⟩

/-- A QTP whose next tick pushes a position other than the slot's. -/
abbrev due : State := (zl 0 7#32 0#32).setTach { z.tach with div := 1#16 }

/-- SPEED written by TACH_COMPUTE, the history and IDX by a Tick, DIV and PERIOD_MS by a TACH_CTRL write. -/
theorem witness_TachObservationRegisters_and_TachCtrlRegister :
    (step ((zt 5#16 0#32 800#32).setEvents [cmd 0x11#32]) = .next (after ((zt 5#16 0#32 800#32).setEvents [cmd 0x11#32])) ∧
      (after ((zt 5#16 0#32 800#32).setEvents [cmd 0x11#32])).tach.speed ≠ (zt 5#16 0#32 800#32).tach.speed) ∧
    (step (due.setEvents [.tick]) = .next (after (due.setEvents [.tick])) ∧
      (after (due.setEvents [.tick])).tach.hist ≠ due.tach.hist ∧ (after (due.setEvents [.tick])).tach.idx ≠ due.tach.idx) ∧
    (step (s₅ (wr 0x01C 0#32)) = .next (after (s₅ (wr 0x01C 0#32))) ∧
      (after (s₅ (wr 0x01C 0#32))).tach.div ≠ z.tach.div ∧ (after (s₅ (wr 0x01C 0#32))).tach.periodMs ≠ z.tach.periodMs) :=
  ⟨⟨rfl, by decide⟩, ⟨rfl, by decide, by decide⟩, ⟨rfl, by decide, by decide⟩⟩

theorem witness_PidUpdateOneAxis_and_PidResetOneAxis :
    axisPresent (sys .four .plus []).params.numPidAxes .rightPosition ∧ axisPresent z.params.numPidAxes .line :=
  ⟨show 3 < 4 by decide, show 4 < 5 by decide⟩

theorem witness_PidUpdateStaysInBounds : ∃ t : State,
    axisPresent (za (axis 200 10 50 1000 100 0 0) 0 600).params.numPidAxes .leftSpeed ∧
    ((za (axis 200 10 50 1000 100 0 0) 0 600).pid.get .leftSpeed).Legal ∧
    exec (.pidUpdate (BitVec.ofNat 3 (axisNumber .leftSpeed))) (za (axis 200 10 50 1000 100 0 0) 0 600) = .next t :=
  ⟨_, show 0 < 5 by decide, by decide, rfl⟩

/-- Two states that differ in the decoder, the tachometer, STATUS and the other axes. -/
theorem witness_PidUpdateDependsOnAxisOnly : ∃ t₁ t₂ : State,
    let x := axis 1 2 3 4 5 6 7
    let s₁ := (sys .four .plus []).setAxis .leftSpeed x
    let s₂ := status 3#4 true (((zl 2 9#32 9#32).setAxis .leftSpeed x).setAxis .line x)
    axisPresent s₁.params.numPidAxes .leftSpeed ∧ axisPresent s₂.params.numPidAxes .leftSpeed ∧
    s₁.pid.get .leftSpeed = s₂.pid.get .leftSpeed ∧ s₁.port.arg0 = s₂.port.arg0 ∧ s₁.port.arg1 = s₂.port.arg1 ∧
    exec (.pidUpdate (BitVec.ofNat 3 (axisNumber .leftSpeed))) s₁ = .next t₁ ∧
    exec (.pidUpdate (BitVec.ofNat 3 (axisNumber .leftSpeed))) s₂ = .next t₂ ∧ s₁ ≠ s₂ :=
  ⟨_, _, show 0 < 4 by decide, show 0 < 5 by decide, rfl, rfl, rfl, rfl, rfl, by decide⟩

theorem witness_TachObservationRegisters_slots : 17 ≤ 17 ∧ 17 < 32 ∧ 17 ≤ 31 ∧ 31 < 32 := by decide

theorem witness_AbsentAxis : (sys .four .plus []).params.numPidAxes.count ≤ (4#3).toNat ∧
    z.params.numPidAxes.count ≤ (5#3).toNat ∧ z.params.numPidAxes.count ≤ (7#3).toNat ∧
    ((sys .four .plus []).params.numPidAxes.count ≤ 4 ∧ (s₄ (rd 0x29C)).events =
      .hostRead (pins 0 0) (z.params.qtpBase + (0x200 + 0x20 * 4 + 4 * 7)) 4 :: []) ∧
    (z.params.numPidAxes.count ≤ 5 ∧ (s₅ (wr 0x2A0 1#32)).events =
      .hostWrite (pins 0 0) (z.params.qtpBase + (0x200 + 0x20 * 5 + 4 * 0)) 4 1#32 :: []) := by decide

/-- LASTERR and INTEGRAL changed by an update of the last axis. -/
abbrev due4 : State := (z.setAxis .line (axis 1 1 1 9 9 0 0)).setPort { z.port with arg1 := 5#32 }

theorem witness_PidStateRegisters : axisPresent due4.params.numPidAxes .line ∧
    step (due4.setEvents [cmd 0x00000420#32]) = .next (after (due4.setEvents [cmd 0x00000420#32])) ∧
    ((after (due4.setEvents [cmd 0x00000420#32])).pid.get .line).lasterr ≠ (due4.pid.get .line).lasterr ∧
    ((after (due4.setEvents [cmd 0x00000420#32])).pid.get .line).integral ≠ (due4.pid.get .line).integral :=
  ⟨show 4 < 5 by decide, rfl, by decide, by decide⟩

/-- The decoder changed by a Strobe, the tachometer by a Tick, an axis by a write to the last word of the last axis block's
configuration. -/
theorem witness_UnitsAreSeparate :
    (step (s₅ (.strobe (pins 1 0))) = .next (after (s₅ (.strobe (pins 1 0)))) ∧ (after (s₅ (.strobe (pins 1 0)))).qd ≠ z.qd) ∧
    (step (s₅ .tick) = .next (after (s₅ .tick)) ∧ (after (s₅ .tick)).tach ≠ z.tach) ∧
    (step (s₅ (wr 0x290 7#32)) = .next (after (s₅ (wr 0x290 7#32))) ∧ (after (s₅ (wr 0x290 7#32))).pid ≠ z.pid) :=
  ⟨⟨rfl, by decide⟩, ⟨rfl, by decide⟩, ⟨rfl, by decide⟩⟩

/-- Two runs with equal state records and the same event, that differ in the other events and in the earlier answer; and an event
that faults. -/
theorem witness_StateRecordIsWholeState :
    (s₅ (.strobe (pins 1 2))).toBlock = { sys .five .plus [.strobe (pins 1 2), .tick] with reply := .ok }.toBlock ∧
    (s₅ (.strobe (pins 1 2))).params = { sys .five .plus [.strobe (pins 1 2), .tick] with reply := .ok }.params ∧
    (s₅ (.strobe (pins 1 2))).events = .strobe (pins 1 2) :: [] ∧
    { sys .five .plus [.strobe (pins 1 2), .tick] with reply := .ok }.events = .strobe (pins 1 2) :: [.tick] ∧
    step (s₅ (.strobe (pins 1 2))) = .next (after (s₅ (.strobe (pins 1 2)))) ∧
    step (s₅ (.hostRead (pins 0 0) 0x1042 4)) = .fault (.busError 0x042#12) := ⟨rfl, rfl, rfl, rfl, rfl, rfl⟩

end Sys2Proof.Tests
end

section
/-! SUPPORT. The effect of one step on the state record, said once for the whole machine: `StepEffect` flattens the inversions of a
step, of a register write and of a command word (`step_cases`, `writeAt_cases`, `dispatchCommand_cases`) into one inductive
relation, and `WheelEffect` is what it means for one wheel. Statements over all events are case analyses over these two. -/

namespace Sys2Proof.Machine

/-- What an event can make of a state, before the event is dropped and answered, and which event did it (R9, R110). -/
inductive StepEffect (s : State) : State → Prop where
  | keep : StepEffect s s
  | reset (pins : Pins) (h : s.ResetNext) : StepEffect s (resetWith pins s)
  | strobe (h : s.StrobeNext) : StepEffect s (qdSampleBoth s)
  | tick (h : s.TickNext) : StepEffect s (tachTick s)
  | commandFails (c : Word) (e : CmdError) (h : s.CommandNext c) : StepEffect s (cmdFail e s)
  | nop (h : s.CommandNext 0x00000000#32) : StepEffect s (cmdDone s)
  | qdSample (w : Wheel) (h : s.CommandNext (BitVec.ofNat 32 (0x001 + 256 * wheelNumber w))) :
      StepEffect s (cmdDone (qdSampleToRes0 w s))
  | qdSampleAll (h : s.CommandNext 0x00000002#32) : StepEffect s (cmdDone (qdSampleBoth s))
  | qdReset (h : s.CommandNext 0x00000003#32) : StepEffect s (cmdDone (qdZero s))
  | tachTick (h : s.CommandNext 0x00000010#32) : StepEffect s (cmdDone (tachTick s))
  | tachCompute (h : s.CommandNext 0x00000011#32) : StepEffect s (cmdDone (tachCompute s))
  | pidUpdate (a : Axis) (ha : axisPresent s.params.numPidAxes a)
      (h : s.CommandNext (BitVec.ofNat 32 (0x020 + 256 * axisNumber a))) : StepEffect s (cmdDone (pidUpdate a s))
  | pidReset (a : Axis) (ha : axisPresent s.params.numPidAxes a)
      (h : s.CommandNext (BitVec.ofNat 32 (0x021 + 256 * axisNumber a))) : StepEffect s (cmdDone (pidClear a s))
  | wrStatus (v : Word) (h : s.WritesNext 0x00C v) : StepEffect s (s.setPort (statusWrite v s.port))
  | wrArg0 (v : Word) (h : s.WritesNext 0x010 v) : StepEffect s (s.setPort { s.port with arg0 := v })
  | wrArg1 (v : Word) (h : s.WritesNext 0x014 v) : StepEffect s (s.setPort { s.port with arg1 := v })
  | wrTachCtrl (v : Word) (h : s.WritesNext 0x01C v) : StepEffect s (s.setTach (tachConfigure v s.tach))
  | wrPos (w : Wheel) (v : Word) (h : s.WritesNext (0x040 + 4 * wheelNumber w) v) :
      StepEffect s (s.setWheel w { s.qd.get w with pos := v })
  | wrPid (off : Offset) (v : Word) (u : State) (h : s.WritesNext off.toNat v) (hu : PidWrite off v s u) :
      StepEffect s u

/-- A CMD write has the effect of its command, or of its failure (R110). -/
theorem dispatchCommand_effect {s : State} {c : Word} (hc : s.CommandNext c) : StepEffect s (dispatchCommand c s) := by
  rcases dispatchCommand_cases c s with ⟨e, h⟩ | ⟨rfl, h⟩ | ⟨w, rfl, h⟩ | ⟨rfl, h⟩ | ⟨rfl, h⟩ | ⟨rfl, h⟩ | ⟨rfl, h⟩ |
    ⟨a, ha, rfl, h⟩ | ⟨a, ha, rfl, h⟩ <;> rw [h]
  · exact .commandFails c e hc
  · exact .nop hc
  · exact .qdSample w hc
  · exact .qdSampleAll hc
  · exact .qdReset hc
  · exact .tachTick hc
  · exact .tachCompute hc
  · exact .pidUpdate a ha hc
  · exact .pidReset a ha hc

/-- A legal register write has one of the effects, and is answered with ok. -/
theorem writeAt_effect {s : State} {off : Offset} {v : Word} (hw : s.WritesNext off.toNat v) :
    ∃ u, StepEffect s u ∧ writeAt off v s = .next { u with reply := .ok } := by
  obtain ⟨u, hu, h⟩ := writeAt_cases off v s
  refine ⟨u, ?_, hu⟩
  rcases h with rfl | ⟨ho, rfl⟩ | ⟨ho, rfl⟩ | ⟨ho, rfl⟩ | ⟨ho, rfl⟩ | ⟨ho, rfl⟩ | ⟨w, ho, rfl⟩ | hpid
  · exact .keep
  · exact dispatchCommand_effect (by rwa [ho] at hw)
  · exact .wrStatus v (ho ▸ hw)
  · exact .wrArg0 v (ho ▸ hw)
  · exact .wrArg1 v (ho ▸ hw)
  · exact .wrTachCtrl v (ho ▸ hw)
  · exact .wrPos w v (ho ▸ hw)
  · exact .wrPid off v u hw hpid

/-- A step that goes on has one of the effects, drops the first event and answers it. -/
theorem step_effect {s t : State} (h : step s = .next t) :
    ∃ u, StepEffect s u ∧ t = { u with events := s.events.tail, reply := t.reply } := by
  rcases step_cases h with ⟨he, rfl⟩ | ⟨pins, rest, he, rfl⟩ | ⟨pins, rest, he, rfl⟩ | ⟨rest, he, rfl⟩ |
    ⟨e, rest, reply, he, rfl⟩ | ⟨pins, v, rest, off, -, he, ht⟩
  · exact ⟨t, .keep, by rw [he, List.tail_nil, ← he]⟩
  · exact ⟨_, .reset pins ⟨pins, rest, he⟩, by simp [he]⟩
  · exact ⟨_, .strobe ⟨pins, rest, he⟩, by simp [he]⟩
  · exact ⟨_, .tick ⟨rest, he⟩, by simp [he]⟩
  · exact ⟨s, .keep, by simp [he]⟩
  · obtain ⟨u, hu, hwrite⟩ := writeAt_effect ⟨pins, rest, he⟩
    rw [hwrite, endEvent_next] at ht
    cases ht
    exact ⟨u, hu, by simp [he]⟩

/-- No effect changes the parameters (R22). -/
theorem StepEffect.params_eq {s u : State} (h : StepEffect s u) : u.params = s.params := by
  cases h with
  | tick => exact tachTick_params s
  | tachTick => exact tachTick_params s
  | wrPid off v u _ hu =>
    obtain ⟨a, -, r, x, -, -, rfl, -⟩ := hu
    rfl
  | _ => rfl

/-! ## One wheel of the decoder -/

/-- The pins of the current event as the statements read them are those the machine samples (R132). -/
theorem channelNow_eq_pinsAt (s : State) (w : Wheel) : channelNow s w = s.pinsAt w := by
  have hpins : pinsPresent s = currentPins s.events := by
    unfold pinsPresent currentPins
    rcases s.events with - | ⟨e, rest⟩
    · rfl
    · cases e <;> rfl
  have hchannel : ∀ e : Encoder, channelOf e = channelState e := by
    rintro ⟨c1, c2⟩
    cases c1 <;> cases c2 <;> rfl
  rw [channelNow, hpins, hchannel]; rfl

/-- The next event samples wheel w: a Strobe, a QD_SAMPLE_ALL or a QD_SAMPLE of this wheel (R133). -/
def State.SamplesNext (s : State) (w : Wheel) : Prop :=
  s.StrobeNext ∨ s.CommandNext 0x00000002#32 ∨ s.CommandNext (BitVec.ofNat 32 (0x001 + 256 * wheelNumber w))

/-- What an event can make of the wheel w, and which event did it (R133, R137, R139, R250). -/
inductive WheelEffect (s : State) (w : Wheel) : QdWheel → Prop where
  | kept : WheelEffect s w (s.qd.get w)
  | sampled (h : s.SamplesNext w) :
      WheelEffect s w (sampledWheel (s.pinsAt w) (sampleResult w s) (s.qd.get w))
  | zeroed (h : s.CommandNext 0x00000003#32) : WheelEffect s w (zeroedWheel (s.qd.get w))
  | loaded (v : Word) (h : s.WritesNext (0x040 + 4 * wheelNumber w) v) :
      WheelEffect s w { s.qd.get w with pos := v }
  | reset (q : QdWheel) (h : s.ResetNext) : WheelEffect s w q

theorem qdSampleBoth_get (s : State) (w : Wheel) :
    (qdSampleBoth s).qd.get w = sampledWheel (s.pinsAt w) (sampleResult w s) (s.qd.get w) := by
  cases w <;> rfl

theorem qdZero_get (s : State) (w : Wheel) : (qdZero s).qd.get w = zeroedWheel (s.qd.get w) := by
  cases w <;> rfl

/-- Each effect of a step, seen at one wheel. -/
theorem StepEffect.wheel {s u : State} (h : StepEffect s u) (w : Wheel) : WheelEffect s w (u.qd.get w) := by
  cases h with
  | reset pins h => exact .reset _ h
  | strobe h => exact qdSampleBoth_get s w ▸ .sampled (.inl h)
  | qdSample x h =>
    show WheelEffect s w ((Machine.qdSample x s).qd.get w)
    by_cases hx : w = x
    · subst hx
      exact qdSample_same s w ▸ .sampled (.inr (.inr h))
    · exact qdSample_other s x hx ▸ .kept
  | qdSampleAll h => exact qdSampleBoth_get s w ▸ .sampled (.inr (.inl h))
  | qdReset h => exact qdZero_get s w ▸ .zeroed h
  | wrPos x v h =>
    by_cases hx : w = x
    · subst hx
      simpa using WheelEffect.loaded v h
    · simpa [PerWheel.get_set_other _ _ hx] using WheelEffect.kept
  | tick => exact tachTick_qd s ▸ .kept
  | tachTick => exact (tachTick_qd s).symm ▸ .kept
  | wrPid off v u _ hu =>
    obtain ⟨a, -, r, x, -, -, rfl, -⟩ := hu
    exact .kept
  | _ => exact .kept

/-- What a step that goes on makes of one wheel. -/
theorem step_wheel {s t : State} (h : step s = .next t) (w : Wheel) : WheelEffect s w (t.qd.get w) := by
  obtain ⟨u, hu, ht⟩ := step_effect h
  have hqd : t.qd = u.qd := by rw [ht]
  exact hqd ▸ hu.wheel w

@[simp] theorem sampledWheel_prev (n : BitVec 2) (r : SampleResult) (q : QdWheel) : (sampledWheel n r q).prev = n := by
  cases r <;> rfl

/-- A sample moves the position by −1, 0 or +1 modulo 2^32 (R29, R133). -/
theorem sampledWheel_pos_mem (n : BitVec 2) (r : SampleResult) (q : QdWheel) :
    (sampledWheel n r q).pos ∈ [q.pos - 1#32, q.pos, q.pos + 1#32] := by
  cases r with
  | zero => simp [sampledWheel, deltaOf?]
  | plusOne => simp [sampledWheel, deltaOf?, bits32_sext32_add]
  | minusOne => simp [sampledWheel, deltaOf?, bits32_sext32_add, BitVec.sub_eq_add_neg]
  | error => simp [sampledWheel, deltaOf?]

end Sys2Proof.Machine
end

section
/-! SUPPORT. The invariants of R41, operation by operation: what a unit's operation must keep for `State.Inv` to survive it. -/

namespace Sys2Proof.Machine

theorem State.Inv.setPort {s : State} (h : s.Inv) {p : Port} (hp : p.Legal) : (s.setPort p).Inv := by
  obtain ⟨-, htach, hpid, habs⟩ := h
  exact ⟨hp, htach, hpid, habs⟩

theorem State.Inv.setWheel {s : State} (h : s.Inv) (w : Wheel) (q : QdWheel) : (s.setWheel w q).Inv := h

theorem State.Inv.setTach {s : State} (h : s.Inv) {t : Tach} (ht : t.Legal) : (s.setTach t).Inv := by
  obtain ⟨hport, -, hpid, habs⟩ := h
  exact ⟨hport, ht, hpid, habs⟩

/-- A write to an axis that exists never touches the slot of an absent one (R39). -/
theorem State.Inv.setAxis {s : State} (h : s.Inv) {a : Axis} (ha : axisPresent s.params.numPidAxes a) {x : PidAxis}
    (hx : (s.pid.get a).Legal → x.Legal) : (s.setAxis a x).Inv := by
  obtain ⟨hport, htach, hpid, habs⟩ := h
  refine ⟨hport, htach, hpid.set_axis hx, fun hfour => ?_⟩
  have hline : a ≠ .line := by
    rintro rfl
    rw [State.setAxis_params] at hfour
    simp [axisPresent, hfour, axisNumber, NumPidAxes.count] at ha
  calc (s.pid.set a x).get .line = s.pid.get .line := PidBank.get_set_other _ _ hline.symm
    _ = PidAxis.reset := habs hfour

/-- A command that ends well leaves STATUS.ERR = 0 (R114). -/
theorem State.Inv.cmdDone {s : State} (h : s.Inv) : (Machine.cmdDone s).Inv := h.setPort (Nat.zero_le 3)

/-- A command that fails leaves one of the codes 1, 2, 3 (R113, R221). -/
theorem State.Inv.cmdFail {s : State} (h : s.Inv) (e : CmdError) : (Machine.cmdFail e s).Inv :=
  h.setPort (errCode_legal e).1

/-- A port whose STATUS.ERR stays is as legal as before: RES0, ARG0, ARG1 and STICKY carry no invariant. -/
theorem State.Inv.setPort_of_err_eq {s : State} (h : s.Inv) {p : Port} (hp : p.err = s.port.err) : (s.setPort p).Inv := by
  have ⟨hport, _, _, _⟩ := h
  exact h.setPort (show p.err.toNat ≤ 3 from hp ▸ hport)

/-- A tick keeps DIVCNT below DIV: it counts below DIV − 1 and returns to 0 from there (R163). -/
theorem tachTick_tach_legal {s : State} (h : s.tach.Legal) : (tachTick s).tach.Legal := by
  obtain ⟨hidx, hdiv, hcnt, hperiod⟩ := h
  by_cases hlt : s.tach.divcnt.toNat + 1 < s.tach.div.toNat
  · rw [tachTick_counts s hlt]
    refine ⟨hidx, hdiv, ?_, hperiod⟩
    have := s.tach.div.isLt
    simp only [BitVec.toNat_ofNat]
    omega
  · rw [tachTick_pushes s (by omega)]
    exact ⟨Nat.le_of_lt_succ (nextSlot s.tach.idx).isLt, hdiv, hdiv, hperiod⟩

/-- A TACH_CTRL write stores two fields that are at least 1 and clears DIVCNT (R161). -/
theorem tachConfigure_legal (v : Word) (t : Tach) : (tachConfigure v t).Legal :=
  ⟨Nat.le_of_lt_succ t.idx.isLt, atLeastOne_pos _, atLeastOne_pos _, atLeastOne_pos _⟩

/-- A computation of the speeds touches none of the fields R41 bounds (R168). -/
theorem State.Inv.tachCompute {s : State} (h : s.Inv) : (Machine.tachCompute s).Inv := h

/-- A sample of both wheels touches nothing R41 bounds. -/
theorem State.Inv.qdSampleBoth {s : State} (h : s.Inv) : (Machine.qdSampleBoth s).Inv := h

theorem State.Inv.tachTick {s : State} (h : s.Inv) : (Machine.tachTick s).Inv := by
  have ⟨_, htach, _, _⟩ := h
  exact tachTick_eq s ▸ h.setTach (tachTick_tach_legal htach)

theorem Block.reset_legal (channels : PerWheel (BitVec 2)) :
    (Block.reset channels).port.Legal ∧ (Block.reset channels).tach.Legal ∧ (Block.reset channels).pid.Legal := by
  simp only [Block.reset]
  decide

/-- Reset establishes the invariants, whatever the state was (R42, R250). -/
theorem resetWith_inv (pins : Pins) (s : State) : (resetWith pins s).Inv := by
  obtain ⟨hport, htach, hpid⟩ := Block.reset_legal { left := pinsOf pins .left, right := pinsOf pins .right }
  exact ⟨hport, htach, hpid, fun _ => rfl⟩

/-- Every effect of a step keeps the invariants. -/
theorem StepEffect.inv {s u : State} (h : StepEffect s u) (hs : s.Inv) : u.Inv := by
  cases h with
  | keep => exact hs
  | reset pins => exact resetWith_inv pins s
  | strobe => exact hs.qdSampleBoth
  | tick => exact hs.tachTick
  | commandFails c e => exact hs.cmdFail e
  | nop => exact hs.cmdDone
  | qdSample w => exact (State.Inv.setPort_of_err_eq (hs.setWheel w _) rfl).cmdDone
  | qdSampleAll => exact hs.qdSampleBoth.cmdDone
  | qdReset => exact ((hs.setWheel _ _).setWheel _ _).cmdDone
  | tachTick => exact hs.tachTick.cmdDone
  | tachCompute => exact hs.tachCompute.cmdDone
  | pidUpdate a ha =>
    have hkeep : (s.pid.get a).Legal →
        (pidUpdateAxis (s.pid.get a) (sext32 s.port.arg0) (sext32 s.port.arg1)).1.Legal := id
    exact (State.Inv.setPort_of_err_eq (hs.setAxis ha hkeep) rfl).cmdDone
  | pidReset a ha =>
    have hkeep : (s.pid.get a).Legal → PidAxis.Legal { s.pid.get a with lasterr := 0#32, integral := 0#32 } := id
    exact (hs.setAxis ha hkeep).cmdDone
  | wrStatus v => exact hs.setPort_of_err_eq rfl
  | wrArg0 v => exact hs.setPort_of_err_eq rfl
  | wrArg1 v => exact hs.setPort_of_err_eq rfl
  | wrTachCtrl v => exact hs.setTach (tachConfigure_legal v _)
  | wrPos w v => exact hs.setWheel w _
  | wrPid off v u _ hu =>
    obtain ⟨a, ha, r, x, -, -, rfl, -, -, hx, -⟩ := hu
    exact hs.setAxis ha hx

end Sys2Proof.Machine
end

section
/-! SUPPORT. What a run holds besides the state record, the parameters and the current event has no influence: an operation
commutes with replacing the list of events and the last answer, as long as the pins of the current event stay (R20, R22). -/

namespace Sys2Proof.Machine

/-- The same record and parameters in another run: other events, another last answer. -/
def State.reframe (s : State) (es : List Event) (r : Reply) : State := { s with events := es, reply := r }

/-- Two runs with equal records and parameters are each other's reframing. -/
theorem State.eq_reframe {s₁ s₂ : State} (hb : s₁.toBlock = s₂.toBlock) (hp : s₁.params = s₂.params) :
    s₂ = s₁.reframe s₂.events s₂.reply := by
  cases s₁; cases s₂; cases hb; cases hp; rfl

/-- An operation that does not look at the frame beyond the current pins, and leaves it alone. -/
def FrameFree (f : State → State) : Prop :=
  ∀ (s : State) (es : List Event) (r : Reply), currentPins es = currentPins s.events →
    f (s.reframe es r) = (f s).reframe es r

/-- A meaning that does not look at the frame beyond the current pins, leaves the events and gives its own answer. -/
def FrameFreeRun (run : State → Host.Outcome State Fault Refusal) : Prop :=
  ∀ (s : State) (es : List Event) (r : Reply), currentPins es = currentPins s.events →
    run (s.reframe es r) = endEvent es (run s)

theorem pinsAt_reframe (w : Wheel) {s : State} {es : List Event} (r : Reply)
    (hp : currentPins es = currentPins s.events) : (s.reframe es r).pinsAt w = s.pinsAt w :=
  congrArg (pinsOf · w) hp

theorem sampleResult_reframe (w : Wheel) {s : State} {es : List Event} (r : Reply)
    (hp : currentPins es = currentPins s.events) : sampleResult w (s.reframe es r) = sampleResult w s :=
  congrArg (transition s.params.qdSign (s.qd.get w).prev) (pinsAt_reframe w r hp)

theorem frameFree_qdSample (w : Wheel) : FrameFree (qdSample w) := by
  intro s es r hp
  simp only [qdSample, pinsAt_reframe w r hp, sampleResult_reframe w r hp]
  rfl

theorem frameFree_qdSampleBoth : FrameFree qdSampleBoth := by
  intro s es r hp
  simp only [qdSampleBoth]
  rw [frameFree_qdSample .left s es r hp, frameFree_qdSample .right (qdSample .left s) es r hp]

theorem frameFree_qdSampleToRes0 (w : Wheel) : FrameFree (qdSampleToRes0 w) := by
  intro s es r hp
  simp only [qdSampleToRes0, frameFree_qdSample w s es r hp, sampleResult_reframe w r hp]
  rfl

theorem frameFree_tachTick : FrameFree tachTick := by
  intro s es r _
  have htach : (tachTick (s.reframe es r)).tach = (tachTick s).tach := by
    by_cases h : s.tach.divcnt.toNat + 1 < s.tach.div.toNat
    · exact (tachTick_counts (s.reframe es r) h).trans (tachTick_counts s h).symm
    · have h := Nat.le_of_not_lt h
      exact (tachTick_pushes (s.reframe es r) h).trans (tachTick_pushes s h).symm
  rw [tachTick_eq (s.reframe es r), tachTick_eq s, htach]
  rfl

theorem frameFree_pidWrite (a : BitVec 3) (upd : PidAxis → PidAxis) : FrameFree (pidWrite a upd) := by
  intro s es r _
  have hparams : (s.reframe es r).params = s.params := rfl
  unfold pidWrite
  rw [hparams]
  cases axisOf? s.params.numPidAxes a <;> rfl

theorem frameFree_withSel {α : Type} (sel? : Option α) {run : α → State → State} (h : ∀ x, FrameFree (run x)) :
    FrameFree (withSel sel? run) := by
  intro s es r hp
  cases sel? with
  | none => rfl
  | some x => rw [withSel_some, withSel_some, h x s es r hp]; rfl

theorem frameFree_runCommand (op : CmdOp) (sel : BitVec 3) : FrameFree (runCommand op sel) := by
  intro s es r hp
  cases op with
  | nop => exact frameFree_withSel (run := fun _ s => s) _ (fun _ _ _ _ _ => rfl) s es r hp
  | qdSample => exact frameFree_withSel _ frameFree_qdSampleToRes0 s es r hp
  | qdSampleAll => exact frameFree_withSel _ (fun _ => frameFree_qdSampleBoth) s es r hp
  | qdReset => exact frameFree_withSel _ (fun _ _ _ _ _ => rfl) s es r hp
  | tachTick => exact frameFree_withSel _ (fun _ => frameFree_tachTick) s es r hp
  | tachCompute => exact frameFree_withSel _ (fun _ _ _ _ _ => rfl) s es r hp
  | pidUpdate => exact frameFree_withSel _ (fun _ _ _ _ _ => rfl) s es r hp
  | pidReset => exact frameFree_withSel _ (fun _ _ _ _ _ => rfl) s es r hp

theorem frameFree_dispatchCommand (c : Word) : FrameFree (dispatchCommand c) := by
  intro s es r hp
  unfold dispatchCommand
  by_cases hr : rsvdField c = 0#21
  · rw [if_pos hr, if_pos hr]
    cases opOf? (opField c) with
    | none => rfl
    | some op => exact frameFree_runCommand op _ s es r hp
  · rw [if_neg hr, if_neg hr]
    rfl

/-- A write's answer is ok, whatever was answered before. -/
theorem FrameFree.acknowledge {f : State → State} (h : FrameFree f) : FrameFreeRun (fun s => acknowledge (f s)) := by
  intro s es r hp
  show Machine.acknowledge (f (s.reframe es r)) = _
  rw [h s es r hp]
  rfl

theorem frameFreeRun_exec (i : Instr) : FrameFreeRun (exec i) := by
  intro s es r hp
  cases i with
  | nop => exact (frameFree_runCommand .nop 0#3).acknowledge s es r hp
  | qdSample sel => exact (frameFree_runCommand .qdSample sel).acknowledge s es r hp
  | qdSampleAll => exact (frameFree_runCommand .qdSampleAll 0#3).acknowledge s es r hp
  | qdReset => exact (frameFree_runCommand .qdReset 0#3).acknowledge s es r hp
  | tachTick => exact (frameFree_runCommand .tachTick 0#3).acknowledge s es r hp
  | tachCompute => exact (frameFree_runCommand .tachCompute 0#3).acknowledge s es r hp
  | pidUpdate sel => exact (frameFree_runCommand .pidUpdate sel).acknowledge s es r hp
  | pidReset sel => exact (frameFree_runCommand .pidReset sel).acknowledge s es r hp
  | wrCmd c => exact (frameFree_dispatchCommand c).acknowledge s es r hp
  | wrPidP a v => exact (frameFree_pidWrite a _).acknowledge s es r hp
  | wrPidI a v => exact (frameFree_pidWrite a _).acknowledge s es r hp
  | wrPidD a v => exact (frameFree_pidWrite a _).acknowledge s es r hp
  | wrPidAw a v => exact (frameFree_pidWrite a _).acknowledge s es r hp
  | wrPidMaxout a v => exact (frameFree_pidWrite a _).acknowledge s es r hp
  | rdQdPins =>
    simp only [exec, execRdQdPins, pinsAt_reframe _ r hp]
    rfl
  | _ => rfl

theorem frameFreeRun_readAt (off : Offset) : FrameFreeRun (readAt off) := by
  intro s es r hp
  unfold readAt
  cases decode (.mmioRead off) with
  | instr i => exact frameFreeRun_exec i s es r hp
  | rejected e => rfl

theorem frameFreeRun_writeAt (off : Offset) (v : Word) : FrameFreeRun (writeAt off v) := by
  intro s es r hp
  unfold writeAt
  cases decode (.mmioWrite off v) with
  | instr i => exact frameFreeRun_exec i s es r hp
  | rejected e => rfl

theorem frameFreeRun_hostAccess (addr size : Nat) {run : Offset → State → Host.Outcome State Fault Refusal}
    (h : ∀ off, FrameFreeRun (run off)) : FrameFreeRun (hostAccess addr size run) := by
  intro s es r hp
  have hparams : (s.reframe es r).params = s.params := rfl
  unfold hostAccess
  rw [hparams]
  cases offsetOf? s.params addr with
  | none => rfl
  | some off =>
    by_cases hl : legalAccess off size = true
    · simpa only [if_pos hl] using h off s es r hp
    · simp only [if_neg hl, endEvent_fault]

theorem frameFreeRun_takeEvent (e : Event) : FrameFreeRun (takeEvent e) := by
  intro s es r hp
  cases e with
  | hostRead pins addr size => exact frameFreeRun_hostAccess addr size frameFreeRun_readAt s es r hp
  | hostWrite pins addr size v =>
    exact frameFreeRun_hostAccess addr size (fun off => frameFreeRun_writeAt off v) s es r hp
  | strobe pins => simp only [takeEvent, frameFree_qdSampleBoth s es r hp]; rfl
  | tick => simp only [takeEvent, frameFree_tachTick s es r hp]; rfl
  | reset pins => rfl

/-- The pins of the current event do not depend on the events behind it. -/
theorem currentPins_cons (e : Event) (rest₁ rest₂ : List Event) :
    currentPins (e :: rest₁) = currentPins (e :: rest₂) := by
  cases e <;> rfl

theorem step_cons {s : State} {e : Event} {rest : List Event} (h : s.events = e :: rest) :
    step s = endEvent rest (takeEvent e s) := by
  simp only [step, h]

/-- A run with the same record and parameters that takes the same event ends it as the other does, up to the events left. -/
theorem step_of_same_record {s₁ s₂ : State} {e : Event} {rest₁ rest₂ : List Event} (hb : s₁.toBlock = s₂.toBlock)
    (hp : s₁.params = s₂.params) (h₁ : s₁.events = e :: rest₁) (h₂ : s₂.events = e :: rest₂) :
    step s₂ = endEvent rest₂ (takeEvent e s₁) := by
  have hpins : currentPins s₂.events = currentPins s₁.events := by rw [h₁, h₂, currentPins_cons]
  have htake : takeEvent e s₂ = endEvent s₂.events (takeEvent e s₁) := by
    rw [← frameFreeRun_takeEvent e s₁ s₂.events s₂.reply hpins, ← State.eq_reframe hb hp]
  rw [step_cons h₂, htake]
  cases takeEvent e s₁ <;> rfl

end Sys2Proof.Machine
end

section
/-! PROOFS. The statements about the state record, its invariants and its identification registers (10_state.md). -/

namespace Sys2Proof.Machine

/-- Settles O15: each effect a step can have keeps the invariants, and dropping and answering the event touches none of them. -/
theorem stepKeepsInvariants : Obligations.StepKeepsInvariants := by
  intro s t hs h
  obtain ⟨u, hu, ht⟩ := step_effect h
  rw [ht]
  exact hu.inv hs

/-- Settles O7, by the effect of a step: it drops the first event, and no effect changes the parameters. -/
theorem stepTakesOneEvent : Obligations.StepTakesOneEvent := by
  refine ⟨fun s t h => ?_, fun s => step_idle⟩
  obtain ⟨u, hu, ht⟩ := step_effect h
  rw [ht]
  exact ⟨rfl, hu.params_eq⟩

/-- Settles O33, by the effect of a step on one wheel. -/
theorem positionMovesByOneStep : Obligations.PositionMovesByOneStep := by
  intro s t w h hreset
  rw [channelNow_eq_pinsAt]
  generalize ht : t.qd.get w = q
  cases ht ▸ step_wheel h w with
  | kept => simp
  | sampled => exact ⟨by simp, fun _ _ => sampledWheel_pos_mem _ _ _⟩
  | zeroed hc => exact ⟨by simp [zeroedWheel], fun hn => absurd hc hn⟩
  | loaded v hv => exact ⟨by simp, fun _ hn => absurd hv (hn v)⟩
  | reset _ hr => exact absurd hr hreset

/-- Settles O34, by the effect of a step on one wheel. -/
theorem samplesWritePrevAndLast : Obligations.SamplesWritePrevAndLast := by
  intro s t w h
  generalize ht : t.qd.get w = q
  cases ht ▸ step_wheel h w with
  | kept => simp
  | sampled hs =>
    intro _
    rcases hs with hs | hc | hc
    · exact .inl hs
    · exact .inr (.inr (.inl hc))
    · exact .inr (.inr (.inr hc))
  | zeroed => simp [zeroedWheel]
  | loaded => simp
  | reset _ hr => exact fun _ => .inr (.inl hr)

/-- Settles O50: both runs end the event as the one outcome of the event says, each with its own events left. -/
theorem stateRecordIsWholeState : Obligations.StateRecordIsWholeState := by
  intro s₁ s₂ e rest₁ rest₂ hb hp h₁ h₂
  rw [step_cons h₁, step_of_same_record hb hp h₁ h₂]
  cases takeEvent e s₁ with
  | next u =>
    refine ⟨fun t₁ ht => ?_, fun f hf => nomatch hf⟩
    cases ht
    exact ⟨_, rfl, rfl, rfl, rfl⟩
  | fault f => exact ⟨fun t₁ ht => (nomatch ht), fun g hg => hg⟩
  | refused r => exact ⟨fun t₁ ht => (nomatch ht), fun g hg => nomatch hg⟩

/-- Settles O14, by the reset values of each unit. -/
theorem resetMeetsInvariants : Obligations.ResetMeetsInvariants := by
  obtain ⟨hport, htach, hpid⟩ := Block.reset_legal { left := 0b00#2, right := 0b00#2 }
  exact ⟨hport, htach, hpid, fun _ => rfl⟩

/-- Settles O22: each register by how its offset decodes and what its instruction answers. -/
theorem identificationRegisters : Obligations.IdentificationRegisters := by
  refine ⟨.intro rfl fun _ => rfl, .intro rfl fun s => ?_, .intro (fun _ => rfl) fun _ _ => rfl,
    .intro (fun _ => rfl) fun _ _ => rfl, .intro rfl fun _ => rfl⟩
  simp only [exec, execRdParams, answer]
  cases s.params.numPidAxes <;> rfl

end Sys2Proof.Machine
end

section
/-! SUPPORT. The outcomes of an access in the words of the statements: which accesses fault, what the instruction of an
access or of a command word does, what an offset outside the register map answers, and which units an effect of a step
touches. -/

namespace Sys2Proof.Machine

/-! ## Faults (R61, R222) -/

theorem readAt_ne_fault (off : Offset) (s : State) (f : Fault) : readAt off s ≠ .fault f := by
  obtain ⟨v, hv⟩ := readAt_eq off s
  simp [hv]

theorem writeAt_ne_fault (off : Offset) (v : Word) (s : State) (f : Fault) : writeAt off v s ≠ .fault f := by
  obtain ⟨t, ht, -⟩ := writeAt_cases off v s
  simp [ht]

/-- A host access whose meaning never faults raises BusError exactly where it is illegal. -/
theorem endEvent_hostAccess_fault_iff {run : Offset → State → Host.Outcome State Fault Refusal} {s : State}
    (hrun : ∀ off s f, run off s ≠ .fault f) (rest : List Event) (addr size : Nat) (off : Offset) :
    endEvent rest (hostAccess addr size run s) = .fault (.busError off) ↔ IllegalAccess s.params addr size off := by
  constructor
  · intro h
    rcases hostAccess_cases addr size run s with ⟨-, hk⟩ | ⟨o, ha, hl, hk⟩ | ⟨o, -, -, -, hk⟩ <;> rw [hk] at h
    · cases h
    · cases h
      exact ⟨ha, by omega⟩
    · cases hr : run o s with
      | next t => rw [hr] at h; cases h
      | fault f => exact absurd hr (hrun o s f)
      | refused r => rw [hr] at h; cases h
  · rintro ⟨rfl, hl⟩
    rw [hostAccess_illegal hl, endEvent_fault]

/-! ## The instruction of an access and of a command word (R65, R110) -/

theorem readAt_of_decode {off : Offset} {i : Instr} (h : decode (.mmioRead off) = .instr i) (s : State) :
    readAt off s = exec i s := by
  simp only [readAt, h]

theorem writeAt_of_decode {off : Offset} {v : Word} {i : Instr} (h : decode (.mmioWrite off v) = .instr i) (s : State) :
    writeAt off v s = exec i s := by
  simp only [writeAt, h]

theorem withoutSel_eq_instr {i j : Instr} {sel : BitVec 3} (h : withoutSel j sel = .instr i) : sel = 0#3 ∧ i = j := by
  unfold withoutSel at h
  split at h
  · cases h
    exact ⟨‹_›, rfl⟩
  · cases h

/-- A CMD write of a word that decodes to a command has that command's meaning (R110). -/
theorem exec_of_decode_cmd {c : Word} {i : Instr} (h : decode (.cmd c) = .instr i) (s : State) :
    exec i s = exec (.wrCmd c) s := by
  show exec i s = acknowledge (dispatchCommand c s)
  simp only [decode, decodeCommand] at h
  unfold dispatchCommand
  by_cases hr : rsvdField c = 0#21
  · rw [if_pos hr] at h ⊢
    cases hop : opOf? (opField c) with
    | none => rw [hop] at h; cases h
    | some op =>
      rw [hop] at h
      cases op with
      | qdSample => cases h; rfl
      | pidUpdate => cases h; rfl
      | pidReset => cases h; rfl
      | _ =>
        obtain ⟨hsel, rfl⟩ := withoutSel_eq_instr h
        rw [hsel]
        rfl
  · rw [if_neg hr] at h
    cases h

/-! ## Offsets outside the register map (R63) -/

theorem histSlot_toNat (off : Offset) : (histSlot off).toNat = off.toNat / 4 % 32 := by
  simp [histSlot, BitVec.extractLsb'_toNat, Nat.shiftRight_eq_div_pow]

/-- The page of an offset, as a number. -/
theorem page_eq_iff (off : Offset) (p : BitVec 4) : off.extractLsb' 8 4 = p ↔ off.toNat / 256 = p.toNat := by
  have hlt := off.isLt
  rw [← BitVec.toNat_inj]
  simp only [BitVec.extractLsb'_toNat, Nat.shiftRight_eq_div_pow]
  omega

theorem histRead_above {k : BitVec 5} (h : 17 ≤ k.toNat) (t : Tach) (w : Wheel) : histRead t w k = 0#32 := by
  rw [histRead, dif_neg (by omega)]

/-- A read that decodes into the first page is of an offset R81 lists. -/
theorem mapped_of_decodeLowRead {off : Offset} {i : Instr} (h : decodeLowRead off = .instr i) (n : Nat) :
    MappedOffset n off.toNat := by
  unfold decodeLowRead at h
  split at h <;> cases h <;> exact .inl (by decide)

/-- A read that decodes into an axis block reads one of the seven registers of the axis (R82). -/
theorem exec_of_decodePidRead {a r : BitVec 3} {i : Instr} (h : decodePidRead a r = .instr i) :
    r.toNat ≤ 6 ∧ ∃ reg, ∀ s, exec i s = answer (pidRead a reg s) s := by
  unfold decodePidRead at h
  split at h <;> cases h <;> exact ⟨by decide, _, fun _ => rfl⟩

/-- A legal read of an offset the register map does not name, in the page of bits [11:8] that it lies in. -/
theorem readAt_unmapped {s : State} {off : Offset} (h4 : off.toNat % 4 = 0)
    (h : ¬ MappedOffset s.params.numPidAxes.count off.toNat) : readAt off s = answer 0#32 s := by
  cases hd : decode (.mmioRead off) with
  | rejected e => simp only [readAt, hd]
  | instr i =>
    rw [readAt_of_decode hd]
    have hal : wordAligned off = true := (wordAligned_iff off).2 h4
    simp only [decode, decodeRead, if_pos hal] at hd
    split at hd
    next => exact absurd (mapped_of_decodeLowRead hd _) h
    next hpage =>
      cases hd
      have hslot : 17 ≤ (histSlot off).toNat := by
        by_contra hlt
        have hoff := (page_eq_iff off 1#4).1 hpage
        have hk := histSlot_toNat off
        exact h (.inr (.inl ⟨(histSlot off).toNat, by omega, by simp at hoff; omega⟩))
      show answer (histRead s.tach (histWheel off) (histSlot off)) s = _
      rw [histRead_above hslot]
    next hpage =>
      obtain ⟨hr, reg, hexec⟩ := exec_of_decodePidRead hd
      have haxis : s.params.numPidAxes.count ≤ (pidAxisField off).toNat := by
        by_contra hlt
        exact h (.inr (.inr ⟨_, _, Nat.lt_of_not_le hlt, hr, pid_offset_eq hal hpage rfl rfl⟩))
      rw [hexec, pidRead_absent haxis]
    next => cases hd

/-- A legal write that has an effect names a register of the map (R63). -/
theorem writeAt_unmapped {s : State} {off : Offset} (h : ¬ MappedOffset s.params.numPidAxes.count off.toNat) (v : Word) :
    writeAt off v s = acknowledge s := by
  have hlow : off.toNat ∉ [0x008, 0x00C, 0x010, 0x014, 0x01C, 0x040, 0x044] := fun hm =>
    h (.inl (by simp at hm ⊢; omega))
  obtain ⟨t, ht, hcase⟩ := writeAt_cases off v s
  rcases hcase with rfl | ⟨ho, -⟩ | ⟨ho, -⟩ | ⟨ho, -⟩ | ⟨ho, -⟩ | ⟨ho, -⟩ | ⟨w, ho, -⟩ | ⟨a, ha, r, -, ho, hr, -⟩
  · exact ht
  · simp [ho] at hlow
  · simp [ho] at hlow
  · simp [ho] at hlow
  · simp [ho] at hlow
  · simp [ho] at hlow
  · cases w <;> simp [ho, wheelNumber] at hlow
  · exact absurd (.inr (.inr ⟨axisNumber a, r, ha, by omega, ho⟩)) h

/-! ## The history window (R83) -/

/-- The statements' offset of a history slot is the encoder's (R83). -/
theorem slotOffset_eq (w : Wheel) (k : Fin 17) : slotOffset w k.val = histOffset w (BitVec.ofNat 5 k.val) := by
  cases w <;> revert k <;> decide

theorem decode_write_slotOffset (w : Wheel) (k : Fin 17) (v : Word) :
    decode (.mmioWrite (slotOffset w k.val) v) = .instr (.wrHist w (BitVec.ofNat 5 k.val) v) := by
  rw [slotOffset_eq]
  obtain ⟨hal, hpage, hw, hk⟩ := histOffset_fields w (BitVec.ofNat 5 k.val)
  simp only [decode, decodeWrite, hal, hpage, hw, hk, if_true]

/-! ## The units an effect touches (R72) -/

theorem StepEffect.qd_changed {s u : State} (h : StepEffect s u) (hne : u.qd ≠ s.qd) :
    s.StrobeNext ∨ s.ResetNext ∨ (∃ c : Word, s.CommandNext c ∧ c.toNat ∈ [0x001, 0x101, 0x002, 0x003]) ∨
      (∃ off v, s.WritesNext off v ∧ off ∈ [0x040, 0x044]) := by
  cases h with
  | reset pins h => exact .inr (.inl h)
  | strobe h => exact .inl h
  | qdSample w h => exact .inr (.inr (.inl ⟨_, h, by cases w <;> decide⟩))
  | qdSampleAll h => exact .inr (.inr (.inl ⟨_, h, by decide⟩))
  | qdReset h => exact .inr (.inr (.inl ⟨_, h, by decide⟩))
  | wrPos w v h => exact .inr (.inr (.inr ⟨_, v, h, by cases w <;> decide⟩))
  | tick => exact absurd (tachTick_qd s) hne
  | tachTick => exact absurd (tachTick_qd s) hne
  | wrPid off v u _ hu =>
    obtain ⟨a, -, r, x, -, -, rfl, -⟩ := hu
    exact absurd rfl hne
  | _ => exact absurd rfl hne

theorem StepEffect.tach_changed {s u : State} (h : StepEffect s u) (hne : u.tach ≠ s.tach) :
    s.TickNext ∨ s.ResetNext ∨ (∃ c : Word, s.CommandNext c ∧ c.toNat ∈ [0x010, 0x011]) ∨
      (∃ v, s.WritesNext 0x01C v) := by
  cases h with
  | reset pins h => exact .inr (.inl h)
  | tick h => exact .inl h
  | tachTick h => exact .inr (.inr (.inl ⟨_, h, by decide⟩))
  | tachCompute h => exact .inr (.inr (.inl ⟨_, h, by decide⟩))
  | wrTachCtrl v h => exact .inr (.inr (.inr ⟨v, h⟩))
  | wrPid off v u _ hu =>
    obtain ⟨a, -, r, x, -, -, rfl, -⟩ := hu
    exact absurd rfl hne
  | _ => exact absurd rfl hne

theorem StepEffect.pid_changed {s u : State} (h : StepEffect s u) (hne : u.pid ≠ s.pid) :
    s.ResetNext ∨ ∃ a, axisPresent s.params.numPidAxes a ∧
      ((∃ c : Word, s.CommandNext c ∧ c.toNat ∈ [0x020 + 256 * axisNumber a, 0x021 + 256 * axisNumber a]) ∨
       (∃ r v, r ≤ 4 ∧ s.WritesNext (0x200 + 0x20 * axisNumber a + 4 * r) v)) := by
  cases h with
  | reset pins h => exact .inl h
  | pidUpdate a ha h => exact .inr ⟨a, ha, .inl ⟨_, h, by cases a <;> decide⟩⟩
  | pidReset a ha h => exact .inr ⟨a, ha, .inl ⟨_, h, by cases a <;> decide⟩⟩
  | wrPid off v u h hu =>
    obtain ⟨a, ha, r, x, ho, hr, -⟩ := hu
    exact .inr ⟨a, ha, .inr ⟨r, v, hr, ho ▸ h⟩⟩
  | tick => exact absurd (tachTick_pid s) hne
  | tachTick => exact absurd (tachTick_pid s) hne
  | _ => exact absurd rfl hne

end Sys2Proof.Machine
end

section
/-! PROOFS. The statements about the window, the accesses to it and the separation of the units (20_memory.md). -/

namespace Sys2Proof.Machine

/-- Settles O6, by the kind of the next event: only an access can fault, and it does exactly where it is illegal. -/
theorem busErrorExactly : Obligations.BusErrorExactly := by
  intro s off
  unfold State.BusErrorNext
  cases he : s.events with
  | nil => simp [step_idle he]
  | cons e rest =>
    cases e with
    | reset pins => simp [step_reset he]
    | strobe pins => simp [step_strobe he]
    | tick => simp [step_tick he]
    | hostRead pins addr size =>
      rw [step_hostRead he, endEvent_hostAccess_fault_iff readAt_ne_fault]
      constructor
      · exact fun h => ⟨pins, addr, size, rest, h, .inl rfl⟩
      · rintro ⟨_, _, _, _, h, hev | ⟨_, hev⟩⟩ <;> cases hev
        exact h
    | hostWrite pins addr size v =>
      rw [step_hostWrite he, endEvent_hostAccess_fault_iff (writeAt_ne_fault · v)]
      constructor
      · exact fun h => ⟨pins, addr, size, rest, h, .inr ⟨v, rfl⟩⟩
      · rintro ⟨_, _, _, _, h, hev | ⟨_, hev⟩⟩ <;> cases hev
        exact h

/-- Settles O9: a step goes on or raises BusError, and a BusError is raised only by the accesses `SafeStep` excludes. -/
theorem safeStepGoesOn : Obligations.SafeStepGoesOn := by
  constructor
  · intro s hsafe
    rcases step_outcome s with hnext | ⟨off, hfault⟩
    · exact hnext
    · exact absurd ((busErrorExactly s off).1 hfault) (hsafe off)
  · intro s r h
    rcases step_outcome s with ⟨t, ht⟩ | ⟨off, ht⟩ <;> rw [ht] at h <;> cases h

/-- Settles O10, for either direction of the access. -/
theorem outsideWindowDoesNothing : Obligations.OutsideWindowDoesNothing := by
  intro s pins addr size v rest hout he
  rcases he with he | he
  · rw [step_hostRead he, hostAccess_outside hout]
    rfl
  · rw [step_hostWrite he, hostAccess_outside hout]
    rfl

/-- Settles O11, from what a legal read and a legal write of an unmapped offset do. -/
theorem unmappedOffsetsReadZero : Obligations.UnmappedOffsetsReadZero := by
  intro s pins off v rest h4 hmap
  constructor
  · intro he
    rw [step_read_legal h4 he, readAt_unmapped h4 hmap]
    rfl
  · intro he
    rw [step_write_legal h4 he, writeAt_unmapped hmap]
    rfl

/-- Settles O12: each write decodes to an instruction that only acknowledges. -/
theorem readOnlyRegistersIgnoreWrites : Obligations.ReadOnlyRegistersIgnoreWrites := by
  refine ⟨.intro (fun _ => rfl) fun _ _ => rfl, .intro (fun _ => rfl) fun _ _ => rfl,
    .intro (fun _ => rfl) fun _ _ => rfl, .intro (fun _ => rfl) fun _ _ => rfl,
    .intro (fun _ => rfl) fun _ _ => rfl, .intro (fun _ => rfl) fun _ _ => rfl,
    .intro (fun _ => rfl) fun _ _ => rfl,
    fun w => .intro (fun _ => ?errDecodes) fun _ _ => rfl,
    fun w => .intro (fun _ => ?speedDecodes) fun _ _ => rfl,
    fun w k => .intro (decode_write_slotOffset w k) fun _ _ => rfl,
    fun a => .intro (fun _ => ?lasterrDecodes) fun _ _ => rfl,
    fun a => .intro (fun _ => ?integralDecodes) fun _ _ => rfl, .intro rfl fun _ => rfl⟩
  case errDecodes => cases w <;> rfl
  case speedDecodes => cases w <;> rfl
  case lasterrDecodes => cases a <;> rfl
  case integralDecodes => cases a <;> rfl

/-- Settles O13: a read keeps the record and the parameters, and a step depends on nothing else but its event. -/
theorem readsHaveNoSideEffect : Obligations.ReadsHaveNoSideEffect := by
  intro s t pins addr size rest he h
  have hkeep : t = { s with events := rest, reply := t.reply } := by
    rw [step_hostRead he] at h
    rcases hostAccess_cases addr size readAt s with ⟨-, hk⟩ | ⟨off, -, -, hk⟩ | ⟨off, -, -, -, hk⟩ <;> rw [hk] at h
    · cases h; rfl
    · cases h
    · obtain ⟨v, hv⟩ := readAt_eq off s
      rw [hv] at h
      cases h; rfl
  refine ⟨hkeep, ?_⟩
  have hblock : s.toBlock = t.toBlock := by rw [hkeep]
  have hparams : s.params = t.params := by rw [hkeep]
  calc step { t with events := .hostRead pins addr size :: rest }
      = endEvent rest (takeEvent (.hostRead pins addr size) s) := step_of_same_record hblock hparams he rfl
    _ = step s := (step_cons he).symm
    _ = .next t := h

/-- Settles O49, by the effect of a step: each effect that changes a unit names its event. -/
theorem unitsAreSeparate : Obligations.UnitsAreSeparate := by
  intro s t h
  obtain ⟨u, hu, ht⟩ := step_effect h
  rw [ht]
  exact ⟨hu.qd_changed, hu.tach_changed, hu.pid_changed⟩

/-- Settles O5: a legal access is the exec of its instruction, and a CMD write that of its command. -/
theorem stepRunsDecodedInstruction : Obligations.StepRunsDecodedInstruction := by
  intro s pins rest off i v
  have hwrite : ∀ {off : Offset} {i : Instr}, s.events = .hostWrite pins (s.params.qtpBase + off.toNat) 4 v :: rest →
      decode (.mmioWrite off v) = .instr i → ∃ t, exec i s = .next t ∧ step s = .next { t with events := rest } := by
    intro off i he hd
    obtain ⟨t, ht, -⟩ := writeAt_cases off v s
    have hstep := step_write_legal (decodeWrite_aligned hd) he
    rw [ht] at hstep
    exact ⟨_, writeAt_of_decode hd s ▸ ht, hstep⟩
  refine ⟨fun he hd => ?_, hwrite, fun he hd => ?_⟩
  · obtain ⟨u, hu⟩ := readAt_eq off s
    have hstep := step_read_legal (decodeRead_aligned hd) he
    rw [hu] at hstep
    exact ⟨_, readAt_of_decode hd s ▸ hu, hstep⟩
  · rw [exec_of_decode_cmd hd]
    exact hwrite (off := 0x008#12) he rfl

end Sys2Proof.Machine
end

section
/-! SUPPORT. What the decoder answers, said by fields: a command word is an assigned operation and a SEL, an offset of a history
window is a wheel and a slot, an offset of an axis block is an axis and a register. Each is said in both directions: what the
encoder's word decodes to, and which word decodes to a given instruction (30_encoding.md). -/

namespace Sys2Proof.Machine

/-! ## Command words (R84 to R87) -/

/-- What an assigned operation and a SEL decode to: the last step of `decodeCommand`. -/
def decodeOp (sel : BitVec 3) : CmdOp → Decoded
  | .nop => withoutSel .nop sel
  | .qdSample => .instr (.qdSample sel)
  | .qdSampleAll => withoutSel .qdSampleAll sel
  | .qdReset => withoutSel .qdReset sel
  | .tachTick => withoutSel .tachTick sel
  | .tachCompute => withoutSel .tachCompute sel
  | .pidUpdate => .instr (.pidUpdate sel)
  | .pidReset => .instr (.pidReset sel)

theorem decodeCommand_of_opOf? {c : Word} {k : CmdOp} (hr : rsvdField c = 0#21) (hk : opOf? (opField c) = some k) :
    decodeCommand c = decodeOp (selField c) k := by
  rw [decodeCommand, if_pos hr, hk]
  cases k <;> rfl

theorem opOf?_opNumber (k : CmdOp) : opOf? (BitVec.ofNat 8 (opNumber k)) = some k := by
  cases k <;> rfl

theorem decode_cmdWord (k : CmdOp) (sel : BitVec 3) :
    decode (.cmd (cmdWord (BitVec.ofNat 8 (opNumber k)) sel)) = decodeOp sel k := by
  rw [decode, decodeCommand_of_opOf? (k := k) (rsvdField_cmdWord _ _) (by rw [opField_cmdWord, opOf?_opNumber]),
    selField_cmdWord]

/-- A command word that decodes to an instruction has RSVD = 0 and an assigned operation, which makes the instruction. -/
theorem decode_cmd_eq_instr {c : Word} {i : Instr} (h : decode (.cmd c) = .instr i) :
    ∃ k, rsvdField c = 0#21 ∧ opOf? (opField c) = some k ∧ decodeOp (selField c) k = .instr i := by
  by_cases hr : rsvdField c = 0#21
  · cases hk : opOf? (opField c) with
    | none => simp [decode, decodeCommand, hr, hk] at h
    | some k => exact ⟨k, hr, rfl, decodeCommand_of_opOf? hr hk ▸ h⟩
  · simp [decode, decodeCommand, hr] at h

/-- The encoder's word of a decoded command: its operation's code and its SEL. -/
theorem encode_of_decodeOp {sel : BitVec 3} {k : CmdOp} {i : Instr} (h : decodeOp sel k = .instr i) :
    encode i = .cmd (cmdWord (BitVec.ofNat 8 (opNumber k)) sel) := by
  cases k with
  | qdSample => cases h; rfl
  | pidUpdate => cases h; rfl
  | pidReset => cases h; rfl
  | _ =>
    obtain ⟨rfl, rfl⟩ := withoutSel_eq_instr h
    rfl

theorem encode_of_decode_cmd {c : Word} {i : Instr} (h : decode (.cmd c) = .instr i) : encode i = .cmd c := by
  obtain ⟨k, hr, hk, hi⟩ := decode_cmd_eq_instr h
  have hop : BitVec.ofNat 8 (opNumber k) = opField c := by
    rw [← opOf?_eq_some hk, BitVec.ofNat_toNat, BitVec.setWidth_eq]
  rw [encode_of_decodeOp hi, hop, cmdWord_of_fields c hr]

/-! ## Offsets (R81 to R83) -/

theorem decode_read_histOffset (w : Wheel) (k : BitVec 5) :
    decode (.mmioRead (histOffset w k)) = .instr (.rdHist w k) := by
  obtain ⟨hal, hpage, hw, hk⟩ := histOffset_fields w k
  simp only [decode, decodeRead, hal, hpage, hw, hk, if_true]

theorem decode_write_histOffset (w : Wheel) (k : BitVec 5) (v : Word) :
    decode (.mmioWrite (histOffset w k) v) = .instr (.wrHist w k v) := by
  obtain ⟨hal, hpage, hw, hk⟩ := histOffset_fields w k
  simp only [decode, decodeWrite, hal, hpage, hw, hk, if_true]

theorem decode_read_pidOffset (a r : BitVec 3) : decode (.mmioRead (pidOffset a r)) = decodePidRead a r := by
  obtain ⟨hal, hpage, ha, hr⟩ := pidOffset_fields a r
  simp only [decode, decodeRead, hal, hpage, ha, hr, if_true]

theorem decode_write_pidOffset (a r : BitVec 3) (v : Word) :
    decode (.mmioWrite (pidOffset a r) v) = decodePidWrite a r v := by
  obtain ⟨hal, hpage, ha, hr⟩ := pidOffset_fields a r
  simp only [decode, decodeWrite, hal, hpage, ha, hr, if_true]

theorem histOffset_toNat (w : Wheel) (k : BitVec 5) :
    (histOffset w k).toNat = 0x100 + 0x80 * wheelNumber w + 4 * k.toNat := by
  cases w <;> revert k <;> decide

theorem pidOffset_toNat (a r : BitVec 3) : (pidOffset a r).toNat = 0x200 + 0x20 * a.toNat + 4 * r.toNat := by
  revert a r; decide

/-- The wheel field of an offset, as a number. -/
theorem wheelNumber_histWheel (off : Offset) : wheelNumber (histWheel off) = off.toNat / 128 % 2 := by
  have hbit : (off.extractLsb' 7 1).toNat = off.toNat / 128 % 2 := by
    simp [BitVec.extractLsb'_toNat, Nat.shiftRight_eq_div_pow]
  rw [← hbit, histWheel]
  generalize off.extractLsb' 7 1 = b
  revert b; decide

/-- An aligned offset of the second page is its wheel and its slot (R83). -/
theorem histOffset_of_fields {off : Offset} (hal : wordAligned off = true) (hpage : off.extractLsb' 8 4 = 1#4) :
    histOffset (histWheel off) (histSlot off) = off := by
  have h4 := (wordAligned_iff off).1 hal
  have h256 : off.toNat / 256 = 1 := (page_eq_iff off 1#4).1 hpage
  apply BitVec.eq_of_toNat_eq
  rw [histOffset_toNat, wheelNumber_histWheel, histSlot_toNat]
  omega

/-- An aligned offset of the third page is its axis and its register (R82). -/
theorem pidOffset_of_fields {off : Offset} (hal : wordAligned off = true) (hpage : off.extractLsb' 8 4 = 2#4) :
    pidOffset (pidAxisField off) (pidRegField off) = off := by
  apply BitVec.eq_of_toNat_eq
  rw [pidOffset_toNat, pid_offset_eq hal hpage rfl rfl]

theorem encode_of_decodeLowRead {off : Offset} {i : Instr} (h : decodeLowRead off = .instr i) :
    encode i = .mmioRead off := by
  unfold decodeLowRead at h
  split at h <;> cases h <;> rfl

theorem encode_of_decodeLowWrite {off : Offset} {v : Word} {i : Instr} (h : decodeLowWrite off v = .instr i) :
    encode i = .mmioWrite off v := by
  unfold decodeLowWrite at h
  split at h <;> cases h <;> rfl

theorem encode_of_decodePidRead {a r : BitVec 3} {i : Instr} (h : decodePidRead a r = .instr i) :
    encode i = .mmioRead (pidOffset a r) := by
  unfold decodePidRead at h
  split at h <;> cases h <;> rfl

theorem encode_of_decodePidWrite {a r : BitVec 3} {v : Word} {i : Instr} (h : decodePidWrite a r v = .instr i) :
    encode i = .mmioWrite (pidOffset a r) v := by
  unfold decodePidWrite at h
  split at h <;> cases h <;> rfl

theorem encode_of_decode_read {off : Offset} {i : Instr} (h : decode (.mmioRead off) = .instr i) :
    encode i = .mmioRead off := by
  have hal : wordAligned off = true := (wordAligned_iff off).2 (decodeRead_aligned h)
  simp only [decode, decodeRead, if_pos hal] at h
  split at h
  next => exact encode_of_decodeLowRead h
  next hpage =>
    cases h
    exact congrArg InstrWord.mmioRead (histOffset_of_fields hal hpage)
  next hpage => rw [encode_of_decodePidRead h, pidOffset_of_fields hal hpage]
  next => cases h

theorem encode_of_decode_write {off : Offset} {v : Word} {i : Instr} (h : decode (.mmioWrite off v) = .instr i) :
    encode i = .mmioWrite off v := by
  have hal : wordAligned off = true := (wordAligned_iff off).2 (decodeWrite_aligned h)
  simp only [decode, decodeWrite, if_pos hal] at h
  split at h
  next => exact encode_of_decodeLowWrite h
  next hpage =>
    cases h
    exact congrArg (InstrWord.mmioWrite · v) (histOffset_of_fields hal hpage)
  next hpage => rw [encode_of_decodePidWrite h, pidOffset_of_fields hal hpage]
  next => cases h

/-! ## How a command ends, by its SEL (R86, R87, R114) -/

/-- From s, a command whose SEL is legal runs to t and keeps the port but for RES0 and STATUS.ERR, which is 0; one whose
SEL is not legal fails with BAD_SEL. -/
def EndsBySel (legal : Prop) (s t : State) : Prop :=
  (legal → ∃ u, t = cmdDone u ∧ u.port = { s.port with res0 := u.port.res0 }) ∧ (¬ legal → t = cmdFail .badSel s)

/-- A check of SEL that turns away exactly the SELs that are not legal makes a command end by its SEL. -/
theorem withSel_endsBySel {α : Type} {sel? : Option α} {run : α → State → State} {s : State} {legal : Prop}
    (hsel : sel? = none ↔ ¬ legal) (hrun : ∀ x, (run x s).port = { s.port with res0 := (run x s).port.res0 }) :
    EndsBySel legal s (withSel sel? run s) := by
  cases sel? with
  | none => exact ⟨fun h => absurd h (hsel.1 rfl), fun _ => rfl⟩
  | some x => exact ⟨fun _ => ⟨run x s, rfl, hrun x⟩, fun h => nomatch hsel.2 h⟩

theorem noSel?_eq_none_iff (sel : BitVec 3) : noSel? sel = none ↔ ¬ sel.toNat = 0 := by
  revert sel; decide

theorem runCommand_endsBySel (k : CmdOp) (sel : BitVec 3) (s : State) :
    EndsBySel (SelLegal s.params.numPidAxes.count (opNumber k) sel.toNat) s (runCommand k sel s) := by
  have hnone := noSel?_eq_none_iff sel
  have hwheel := wheelOfSel?_eq_none_iff sel
  have haxis := axisOf?_eq_none_iff s.params.numPidAxes sel
  cases k with
  | nop => exact withSel_endsBySel (run := fun _ s => s) (by simp [SelLegal, opNumber, hnone]) fun _ => rfl
  | qdSample => exact withSel_endsBySel (by simp [SelLegal, opNumber, hwheel]; omega) fun _ => rfl
  | qdSampleAll => exact withSel_endsBySel (by simp [SelLegal, opNumber, hnone]) fun _ => rfl
  | qdReset => exact withSel_endsBySel (by simp [SelLegal, opNumber, hnone]) fun _ => rfl
  | tachTick => exact withSel_endsBySel (by simp [SelLegal, opNumber, hnone]) fun _ => by rw [tachTick_port]
  | tachCompute => exact withSel_endsBySel (by simp [SelLegal, opNumber, hnone]) fun _ => rfl
  | pidUpdate => exact withSel_endsBySel (by simp [SelLegal, opNumber, haxis]) fun _ => rfl
  | pidReset => exact withSel_endsBySel (by simp [SelLegal, opNumber, haxis]) fun _ => rfl

/-- A decoded command is well formed exactly when its SEL is legal (R86). -/
theorem wellFormed_iff_selLegal {sel : BitVec 3} {k : CmdOp} {i : Instr} (h : decodeOp sel k = .instr i) (n : NumPidAxes) :
    wellFormed n i = true ↔ SelLegal n.count (opNumber k) sel.toNat := by
  cases k with
  | qdSample => cases h; simp [wellFormed, SelLegal, opNumber, Config.numWheels]
  | pidUpdate => cases h; simp [wellFormed, axisExists, SelLegal, opNumber]
  | pidReset => cases h; simp [wellFormed, axisExists, SelLegal, opNumber]
  | _ =>
    obtain ⟨rfl, rfl⟩ := withoutSel_eq_instr h
    simp [wellFormed, SelLegal, opNumber]

/-- A decoded command runs as its operation and its SEL say (R110). -/
theorem exec_eq_runCommand {c : Word} {k : CmdOp} {i : Instr} (h : decode (.cmd c) = .instr i) (hr : rsvdField c = 0#21)
    (hk : opOf? (opField c) = some k) (s : State) : exec i s = acknowledge (runCommand k (selField c) s) := by
  rw [exec_of_decode_cmd h]
  show acknowledge (dispatchCommand c s) = _
  rw [dispatchCommand, if_pos hr, hk]

end Sys2Proof.Machine
end

section
/-! PROOFS. The statements about decoding and encoding and about the commands a word decodes to (30_encoding.md). -/

namespace Sys2Proof.Machine

/-- Settles O1, by the form of the instruction's word: a command word, an offset of the list of R81, a history slot (R83) or an
axis register (R82). -/
theorem decodeInvertsEncode : Obligations.DecodeInvertsEncode := by
  intro i
  cases i with
  | nop => exact decode_cmdWord .nop 0#3
  | qdSample sel => exact decode_cmdWord .qdSample sel
  | qdSampleAll => exact decode_cmdWord .qdSampleAll 0#3
  | qdReset => exact decode_cmdWord .qdReset 0#3
  | tachTick => exact decode_cmdWord .tachTick 0#3
  | tachCompute => exact decode_cmdWord .tachCompute 0#3
  | pidUpdate sel => exact decode_cmdWord .pidUpdate sel
  | pidReset sel => exact decode_cmdWord .pidReset sel
  | rdPos w | rdErr w | rdSpeed w => cases w <;> rfl
  | wrPos w v | wrErr w v | wrSpeed w v => cases w <;> rfl
  | rdHist w k => exact decode_read_histOffset w k
  | wrHist w k v => exact decode_write_histOffset w k v
  | rdPidP a | rdPidI a | rdPidD a | rdPidAw a | rdPidMaxout a | rdPidLasterr a | rdPidIntegral a =>
    exact decode_read_pidOffset a _
  | wrPidP a v | wrPidI a v | wrPidD a v | wrPidAw a v | wrPidMaxout a v | wrPidLasterr a v | wrPidIntegral a v =>
    exact decode_write_pidOffset a _ v
  | _ => rfl

/-- Settles O2, by the form of the word. -/
theorem encodeInvertsDecode : Obligations.EncodeInvertsDecode := by
  intro w i h
  cases w with
  | cmd c => exact encode_of_decode_cmd h
  | mmioRead off => exact encode_of_decode_read h
  | mmioWrite off v => exact encode_of_decode_write h

/-- Settles O4: the SEL of a decoded command is legal in the sense of R86 exactly when the command is well formed, and
decides how the command ends. -/
theorem wellFormedCommandsRun : Obligations.WellFormedCommandsRun := by
  intro c i s h
  obtain ⟨k, hr, hk, hi⟩ := decode_cmd_eq_instr h
  have hop : c.toNat % 256 = opNumber k := by rw [← opField_toNat, opOf?_eq_some hk]
  have hsel : c.toNat / 256 = (selField c).toNat := by
    have hlt := (rsvdField_eq_zero_iff c).1 hr
    rw [selField_toNat]
    omega
  have hwf := wellFormed_iff_selLegal hi s.params.numPidAxes
  obtain ⟨hruns, hfails⟩ := runCommand_endsBySel k (selField c) s
  rw [exec_eq_runCommand h hr hk, hop, hsel]
  refine ⟨hwf, fun hlegal => ?_, fun hillegal => ?_⟩
  · obtain ⟨u, hu, hport⟩ := hruns (hwf.1 hlegal)
    refine ⟨_, rfl, ?_⟩
    rw [hu]
    exact ⟨rfl, (congrArg Port.sticky hport :), (congrArg Port.arg0 hport :), (congrArg Port.arg1 hport :)⟩
  · rw [hfails fun hlegal => by simp [hwf.2 hlegal] at hillegal]
    rfl

/-- Settles O3: the legal words are encodings, and the rejections are evaluated. -/
theorem writtenWordsDecode : Obligations.WrittenWordsDecode :=
  ⟨decodeInvertsEncode .nop, decodeInvertsEncode (.qdSample 1#3), decodeInvertsEncode .qdReset,
    decodeInvertsEncode .tachCompute, decodeInvertsEncode (.pidUpdate 4#3), decodeInvertsEncode (.rdSpeed .right),
    decodeInvertsEncode (.rdHist .right 16#5), decodeInvertsEncode (.wrPidAw 2#3 7#32), by decide, by decide, by decide,
    by decide⟩

end Sys2Proof.Machine
end

section
/-! SUPPORT. The command port, said once: how a CMD write goes through the checks of R110, what a step can make of the port's
registers and which event did it, and the two results that RES0 carries, in the words of the statements (40_command_port.md). -/

namespace Sys2Proof.Machine

/-! ## The checks of a CMD write (R110, R224) -/

theorem exec_wrCmd (c : Word) (s : State) : exec (.wrCmd c) s = acknowledge (dispatchCommand c s) := rfl

/-- A command that fails is answered with ok (R113). -/
theorem acknowledge_cmdFail (e : CmdError) (s : State) : acknowledge (cmdFail e s) = failedWith (errCode e) s := rfl

theorem dispatchCommand_of_opOf? {c : Word} {k : CmdOp} (hc : c.toNat < 2048) (hk : opOf? (opField c) = some k)
    (s : State) : dispatchCommand c s = runCommand k (selField c) s := by
  rw [dispatchCommand, if_pos ((rsvdField_eq_zero_iff c).2 hc), hk]

/-- Below the reserved bits, SEL is all that stands above OP. -/
theorem selField_toNat_of_lt {c : Word} (hc : c.toNat < 2048) : (selField c).toNat = c.toNat / 256 := by
  rw [selField_toNat]
  omega

/-- An OP that R85 assigns is the code of an operation. -/
theorem opOf?_of_assigned {c : Word} (hop : c.toNat % 256 ∈ [0x00, 0x01, 0x02, 0x03, 0x10, 0x11, 0x20, 0x21]) :
    ∃ k, opOf? (opField c) = some k ∧ c.toNat % 256 = opNumber k := by
  rw [← opField_toNat] at hop ⊢
  cases hk : opOf? (opField c) with
  | none => exact absurd hop ((opOf?_eq_none_iff _).1 hk)
  | some k => exact ⟨k, rfl, opOf?_eq_some hk⟩

theorem assigned_of_selLegal {n op sel : Nat} (h : SelLegal n op sel) :
    op ∈ [0x00, 0x01, 0x02, 0x03, 0x10, 0x11, 0x20, 0x21] := by
  rcases h with ⟨rfl, -⟩ | ⟨h, -⟩ | ⟨h, -⟩
  · decide
  · simp at h ⊢; omega
  · simp at h ⊢; omega

/-- The first check: a reserved bit. -/
theorem exec_wrCmd_rsvdBits {c : Word} (hc : 2048 ≤ c.toNat) (s : State) : exec (.wrCmd c) s = failedWith 1#4 s := by
  have hr : ¬ rsvdField c = 0#21 := fun hr => Nat.not_lt.2 hc ((rsvdField_eq_zero_iff c).1 hr)
  rw [exec_wrCmd, dispatchCommand, if_neg hr]
  exact acknowledge_cmdFail .rsvdBits s

/-- The second check: an OP that is not assigned. -/
theorem exec_wrCmd_illegalOp {c : Word} (hc : c.toNat < 2048)
    (hop : c.toNat % 256 ∉ [0x00, 0x01, 0x02, 0x03, 0x10, 0x11, 0x20, 0x21]) (s : State) :
    exec (.wrCmd c) s = failedWith 2#4 s := by
  have hnone : opOf? (opField c) = none := (opOf?_eq_none_iff _).2 (opField_toNat c ▸ hop)
  rw [exec_wrCmd, dispatchCommand, if_pos ((rsvdField_eq_zero_iff c).2 hc), hnone]
  exact acknowledge_cmdFail .illegalOp s

/-- The third check: a SEL that is not legal for the OP. -/
theorem exec_wrCmd_badSel {c : Word} {s : State} (hc : c.toNat < 2048)
    (hop : c.toNat % 256 ∈ [0x00, 0x01, 0x02, 0x03, 0x10, 0x11, 0x20, 0x21])
    (hsel : ¬ SelLegal s.params.numPidAxes.count (c.toNat % 256) (c.toNat / 256)) :
    exec (.wrCmd c) s = failedWith 3#4 s := by
  obtain ⟨k, hk, hopk⟩ := opOf?_of_assigned hop
  rw [hopk, ← selField_toNat_of_lt hc] at hsel
  obtain ⟨-, hfails⟩ := runCommand_endsBySel k (selField c) s
  rw [exec_wrCmd, dispatchCommand_of_opOf? hc hk, hfails hsel]
  exact acknowledge_cmdFail .badSel s

theorem decodeOp_of_selLegal {n : Nat} {k : CmdOp} {sel : BitVec 3} (h : SelLegal n (opNumber k) sel.toNat) :
    ∃ i, decodeOp sel k = .instr i := by
  cases k with
  | qdSample | pidUpdate | pidReset => exact ⟨_, rfl⟩
  | _ =>
    have hzero : sel = 0#3 := BitVec.eq_of_toNat_eq (by simpa [SelLegal, opNumber] using h)
    rw [hzero]
    exact ⟨_, rfl⟩

/-- A word that passes the checks is a command (R86). -/
theorem decode_cmd_of_selLegal {n : Nat} {c : Word} (hc : c.toNat < 2048)
    (h : SelLegal n (c.toNat % 256) (c.toNat / 256)) : ∃ i, decode (.cmd c) = .instr i := by
  obtain ⟨k, hk, hopk⟩ := opOf?_of_assigned (assigned_of_selLegal h)
  rw [hopk, ← selField_toNat_of_lt hc] at h
  rw [decode, decodeCommand_of_opOf? ((rsvdField_eq_zero_iff c).2 hc) hk]
  exact decodeOp_of_selLegal h

/-! ## STATUS (R115, R116) -/

theorem statusWord_eq (p : Port) :
    statusWord p = BitVec.ofNat 32 (p.err.toNat + 256 * (if p.sticky then 1 else 0)) := by
  unfold statusWord
  generalize p.err = err
  generalize p.sticky = sticky
  revert err sticky
  decide

theorem getLsbD_eight (v : Word) : v.getLsbD 8 = decide (v.toNat / 256 % 2 = 1) :=
  Nat.testBit_eq_decide_div_mod_eq

/-- A STATUS write clears STICKY or changes nothing (R116). -/
theorem setPort_statusWrite (v : Word) (s : State) : s.setPort (statusWrite v s.port) =
    if v.toNat / 256 % 2 = 1 then { s with port := { s.port with sticky := false } } else s := by
  rw [statusWrite, getLsbD_eight]
  by_cases hv : v.toNat / 256 % 2 = 1
  · rw [if_pos hv, if_pos (decide_eq_true hv)]; rfl
  · rw [if_neg hv, if_neg (mt of_decide_eq_true hv)]; rfl

/-! ## The port after a step -/

/-- What an event can make of the port's registers, and which event did it (R113 to R119, R250). -/
inductive PortEffect (s : State) : Port → Prop where
  | kept : PortEffect s s.port
  | reset (h : s.ResetNext) : PortEffect s Port.reset
  | failed (c : Word) (e : CmdError) (h : s.CommandNext c) : PortEffect s (portFail e s.port)
  | ran (c : Word) (h : s.CommandNext c) : PortEffect s (portDone s.port)
  | sampled (w : Wheel) (r : Word) (h : s.CommandNext (BitVec.ofNat 32 (0x001 + 256 * wheelNumber w))) :
      PortEffect s (portDone { s.port with res0 := r })
  | updated (a : Axis) (r : Word) (ha : axisPresent s.params.numPidAxes a)
      (h : s.CommandNext (BitVec.ofNat 32 (0x020 + 256 * axisNumber a))) :
      PortEffect s (portDone { s.port with res0 := r })
  | wrStatus (v : Word) (h : s.WritesNext 0x00C v) : PortEffect s (statusWrite v s.port)
  | wrArg0 (v : Word) (h : s.WritesNext 0x010 v) : PortEffect s { s.port with arg0 := v }
  | wrArg1 (v : Word) (h : s.WritesNext 0x014 v) : PortEffect s { s.port with arg1 := v }

/-- Each effect of a step, seen at the port. -/
theorem StepEffect.port {s u : State} (h : StepEffect s u) : PortEffect s u.port := by
  cases h with
  | reset pins h => exact .reset h
  | tick => exact (tachTick_port s).symm ▸ .kept
  | commandFails c e h => exact .failed c e h
  | nop h | qdSampleAll h | qdReset h | tachCompute h | pidReset a ha h => exact .ran _ h
  | tachTick h =>
    show PortEffect s (portDone (Machine.tachTick s).port)
    exact (tachTick_port s).symm ▸ .ran _ h
  | qdSample w h => exact .sampled w _ h
  | pidUpdate a ha h => exact .updated a _ ha h
  | wrStatus v h => exact .wrStatus v h
  | wrArg0 v h => exact .wrArg0 v h
  | wrArg1 v h => exact .wrArg1 v h
  | wrPid off v u _ hu =>
    obtain ⟨a, -, r, x, -, -, rfl, -⟩ := hu
    exact .kept
  | keep | strobe | wrTachCtrl | wrPos => exact .kept

/-- What a step that goes on makes of the port. -/
theorem step_port {s t : State} (h : step s = .next t) : PortEffect s t.port := by
  obtain ⟨u, hu, ht⟩ := step_effect h
  have hport : t.port = u.port := by rw [ht]
  exact hport ▸ hu.port

section PortChanges

variable {s : State} {p : Port} (h : PortEffect s p)
include h

theorem PortEffect.sticky_set (hbefore : s.port.sticky = false) (hafter : p.sticky = true) :
    ∃ c, s.CommandNext c ∧ p.err ≠ 0#4 := by
  have hne : s.port.sticky ≠ true := by simp [hbefore]
  cases h with
  | failed c e hc => exact ⟨c, hc, (errCode_legal e).2⟩
  | reset => cases hafter
  | wrStatus v => simp [statusWrite, hbefore] at hafter
  | _ => exact absurd hafter hne

theorem PortEffect.sticky_cleared (hbefore : s.port.sticky = true) (hafter : p.sticky = false) :
    (∃ v : Word, s.WritesNext 0x00C v ∧ v.getLsbD 8 = true) ∨ s.ResetNext := by
  have hne : s.port.sticky ≠ false := by simp [hbefore]
  cases h with
  | reset hr => exact .inr hr
  | failed => cases hafter
  | wrStatus v hw =>
    simp only [statusWrite, hbefore] at hafter
    exact .inl ⟨v, hw, by simpa using hafter⟩
  | _ => exact absurd hafter hne

theorem PortEffect.err_changed (hne : p.err ≠ s.port.err) : (∃ c, s.CommandNext c) ∨ s.ResetNext := by
  cases h with
  | reset hr => exact .inr hr
  | failed c e hc => exact .inl ⟨c, hc⟩
  | ran c hc => exact .inl ⟨c, hc⟩
  | sampled w r hc => exact .inl ⟨_, hc⟩
  | updated a r ha hc => exact .inl ⟨_, hc⟩
  | _ => exact absurd rfl hne

theorem PortEffect.arg0_changed (hne : p.arg0 ≠ s.port.arg0) : s.WritesNext 0x010 p.arg0 ∨ s.ResetNext := by
  cases h with
  | reset hr => exact .inr hr
  | wrArg0 v hw => exact .inl hw
  | _ => exact absurd rfl hne

theorem PortEffect.arg1_changed (hne : p.arg1 ≠ s.port.arg1) : s.WritesNext 0x014 p.arg1 ∨ s.ResetNext := by
  cases h with
  | reset hr => exact .inr hr
  | wrArg1 v hw => exact .inl hw
  | _ => exact absurd rfl hne

theorem PortEffect.res0_changed (hne : p.res0 ≠ s.port.res0) :
    (∃ w, s.CommandNext (BitVec.ofNat 32 (0x001 + 256 * wheelNumber w))) ∨
    (∃ a, axisPresent s.params.numPidAxes a ∧ s.CommandNext (BitVec.ofNat 32 (0x020 + 256 * axisNumber a))) ∨
    s.ResetNext := by
  cases h with
  | reset hr => exact .inr (.inr hr)
  | sampled w r hc => exact .inl ⟨w, hc⟩
  | updated a r ha hc => exact .inr (.inl ⟨a, ha, hc⟩)
  | _ => exact absurd rfl hne

end PortChanges

/-! ## The results of QD_SAMPLE and PID_UPDATE (R130, R134, R191) -/

/-- The transition table counts along the Gray sequence (R130, R131). -/
theorem deltaOf?_transition (sign : QdSign) (p n : BitVec 2) : deltaOf? (transition sign p n) = grayCount sign p n := by
  cases sign <;> revert p n <;> decide

theorem resultWord_eq (r : SampleResult) : resultWord r = res0Of (deltaOf? r) := by
  cases r <;> rfl

theorem runCommand_qdSample (w : Wheel) (s : State) :
    runCommand .qdSample (BitVec.ofNat 3 (wheelNumber w)) s = cmdDone (qdSampleToRes0 w s) := by
  rw [runCommand, wheelOfSel?_number, withSel_some]

theorem runCommand_pidUpdate {a : Axis} {s : State} (ha : axisPresent s.params.numPidAxes a) :
    runCommand .pidUpdate (BitVec.ofNat 3 (axisNumber a)) s = cmdDone (pidUpdate a s) := by
  rw [runCommand, axisOf?_number ha, withSel_some]

/-- The result that QD_SAMPLE puts into RES0 (R134). -/
theorem qdSampleToRes0_res0 (w : Wheel) (s : State) : (qdSampleToRes0 w s).port.res0 =
    res0Of (grayCount s.params.qdSign (s.qd.get w).prev (channelNow s w)) := by
  rw [channelNow_eq_pinsAt, ← deltaOf?_transition, ← resultWord_eq]
  rfl

/-- PID_UPDATE on an axis, by the formula of the statements (R191). -/
theorem pidUpdateAxis_eq (x : PidAxis) (m t : Word) :
    pidUpdateAxis x (sext32 m) (sext32 t) = (axisAfter x m t, pidOutput x m t) := by
  have herror : sat32 (sext32 t - sext32 m) = pidError m t := by
    unfold sat32 clamp pidError sext32
    omega
  simp only [pidUpdateAxis, herror, truncDiv_eq_tdiv]
  rfl

/-- The output that PID_UPDATE puts into RES0 (R192). -/
theorem pidUpdate_res0 (a : Axis) (s : State) : (pidUpdate a s).port.res0 =
    BitVec.ofInt 32 (pidOutput (s.pid.get a) s.port.arg0 s.port.arg1) := by
  simp only [pidUpdate, pidUpdateAxis_eq]
  rfl

end Sys2Proof.Machine
end

section
/-! PROOFS. The statements about the command port: CMD, STATUS, ARG0, ARG1, RES0 and NOP (40_command_port.md). -/

namespace Sys2Proof.Machine

/-- Settles O18: the checks in their order, and for a word that passes them the command it decodes to. -/
theorem commandDispatch : Obligations.CommandDispatch := by
  refine ⟨fun _ => rfl, fun _ s hc => exec_wrCmd_rsvdBits hc s, fun _ s hc hop => exec_wrCmd_illegalOp hc hop s,
    fun _ _ hc hop hsel => exec_wrCmd_badSel hc hop hsel, fun c s hc hsel => ?_, fun s pins c rest he => ?_,
    fun s pins c size rest hsize he => ?_⟩
  · obtain ⟨i, hi⟩ := decode_cmd_of_selLegal hc hsel
    obtain ⟨hwf, hruns, -⟩ := wellFormedCommandsRun c i s hi
    obtain ⟨t, ht, herr, hsticky, -⟩ := hruns (hwf.2 hsel)
    exact ⟨i, t, hi, (exec_of_decode_cmd hi s).symm, ht, herr, hsticky⟩
  · obtain ⟨-, hwrite, -⟩ := stepRunsDecodedInstruction s pins rest 0x008#12 (.wrCmd c) c
    exact hwrite he rfl
  · have hfault := hostAccess_illegal (off := 0x008#12) (.inl hsize) (fun off => writeAt off c) s
    rw [step_hostWrite he]
    exact congrArg (endEvent rest) hfault

/-- Settles O20: the read and the write of STATUS, and over all events what a step can make of the port. -/
theorem statusRegister : Obligations.StatusRegister := by
  refine ⟨.intro rfl fun s => ?_, .intro (fun _ => rfl) fun v s => ?_, fun s t h => ?_⟩
  · rw [← statusWord_eq]
    rfl
  · exact congrArg acknowledge (setPort_statusWrite v s)
  · have hport := step_port h
    exact ⟨hport.sticky_set, hport.sticky_cleared, hport.err_changed⟩

/-- Settles O21: the read and write rules, over all events what a step can make of the port, and the two results of RES0. -/
theorem operandRegisters : Obligations.OperandRegisters := by
  refine ⟨.intro rfl fun _ => rfl, .intro (fun _ => rfl) fun _ _ => rfl, .intro rfl fun _ => rfl,
    .intro (fun _ => rfl) fun _ _ => rfl, .intro rfl fun _ => rfl, .intro (fun _ => rfl) fun _ _ => rfl,
    fun s t h => ?_, fun w s => ?_, fun a s ha => ?_⟩
  · have hport := step_port h
    exact ⟨hport.arg0_changed, hport.arg1_changed, hport.res0_changed⟩
  · exact ⟨_, congrArg acknowledge (runCommand_qdSample w s), qdSampleToRes0_res0 w s⟩
  · exact ⟨_, congrArg acknowledge (runCommand_pidUpdate ha), pidUpdate_res0 a s⟩

/-- Settles O19: NOP's effect by evaluation, its illegal words by the checks of a CMD write. -/
theorem nopClearsErrOnly : Obligations.NopClearsErrOnly := by
  refine ⟨decodeInvertsEncode .nop, fun _ => rfl, fun c s hop hsel hc => ?_, fun _ s _ hc => exec_wrCmd_rsvdBits hc s⟩
  have hne : c.toNat / 256 ≠ 0 := by omega
  exact exec_wrCmd_badSel hc (by simp [hop]) (by simp [SelLegal, hop, hne])

end Sys2Proof.Machine
end

section
/-! SUPPORT. The quadrature decoder in the words of the statements: a sample as a Gray count, a sample of both wheels, the
accesses of its registers, and what the error count of a sampled wheel can be (41_quad_decoder.md). -/

namespace Sys2Proof.Machine

/-! ## A sample as a Gray count (R130, R133) -/

theorem resultOf_deltaOf? (r : SampleResult) : resultOf (deltaOf? r) = r := by
  cases r <;> rfl

/-- The error count after an ERROR: one more, except at 2^32 − 1, where it stays (R30). -/
theorem errcntNext_eq (e : Word) : errcntNext e = if e = 0xFFFFFFFF#32 then e else e + 1#32 := by
  have hlt := e.isLt
  apply BitVec.eq_of_toNat_eq
  rw [errcntNext_toNat]
  split
  next hmax => rw [hmax]; rfl
  next hne =>
    have hne : e.toNat ≠ 0xFFFFFFFF := fun h => hne (BitVec.eq_of_toNat_eq h)
    rw [BitVec.toNat_add, BitVec.toNat_ofNat]
    omega

/-- A sample by the transition table is the sample by the Gray count. -/
theorem sampledWheel_transition (sign : QdSign) (n : BitVec 2) (q : QdWheel) :
    sampledWheel n (transition sign q.prev n) q = wheelAfter sign n q := by
  unfold sampledWheel wheelAfter
  rw [deltaOf?_transition, ← resultOf_deltaOf? (transition sign q.prev n), deltaOf?_transition]
  cases grayCount sign q.prev n with
  | none => rw [errcntNext_eq]; rfl
  | some d => simp only [bits32_sext32_add]

/-- What the machine makes of a sampled wheel, in the words of the statements. -/
theorem sampledWheel_eq_sampledAt (s : State) (w : Wheel) :
    sampledWheel (s.pinsAt w) (sampleResult w s) (s.qd.get w) = sampledAt s w := by
  rw [sampledAt, channelNow_eq_pinsAt]
  exact sampledWheel_transition _ _ _

theorem qdSample_qd (w : Wheel) (s : State) : (qdSample w s).qd = s.qd.set w (sampledAt s w) := by
  rw [← sampledWheel_eq_sampledAt]
  rfl

theorem qdSampleBoth_eq_bothSampled (s : State) : qdSampleBoth s = { s with qd := bothSampled s } := by
  rw [bothSampled, ← sampledWheel_eq_sampledAt, ← sampledWheel_eq_sampledAt]
  rfl

theorem bothSampled_get (s : State) (w : Wheel) : (bothSampled s).get w = sampledAt s w := by
  cases w <;> rfl

/-- Both samples of the state before, stored one after the other, in either order. -/
theorem bothSampled_eq_set (s : State) {first second : Wheel} (hne : first ≠ second) :
    bothSampled s = (s.qd.set first (sampledAt s first)).set second (sampledAt s second) :=
  match first, second, hne with
  | .left, .right, _ | .right, .left, _ => rfl
  | .left, .left, h | .right, .right, h => absurd rfl h

/-- A sample of a wheel looks at its pins, its own state and the sign of the count, and at nothing else (R133). -/
theorem sampledAt_congr {s t : State} {w : Wheel} (hparams : t.params = s.params) (hevents : t.events = s.events)
    (hwheel : t.qd.get w = s.qd.get w) : sampledAt t w = sampledAt s w := by
  simp only [sampledAt, channelNow, pinsPresent, hparams, hevents, hwheel]

theorem channelNow_strobe {s : State} {pins : Pins} {rest : List Event} (he : s.events = .strobe pins :: rest) (w : Wheel) :
    channelNow s w = channelOf (pins.get w) := by
  simp only [channelNow, pinsPresent, he]

/-! ## The commands of the decoder (R134, R135, R137) -/

theorem exec_qdSample (w : Wheel) (s : State) : exec (.qdSample (BitVec.ofNat 3 (wheelNumber w))) s =
    ranWith s (res0Of (grayCount s.params.qdSign (s.qd.get w).prev (channelNow s w)))
      (s.qd.set w (sampledAt s w)) s.tach s.pid := by
  rw [← qdSampleToRes0_res0, ← qdSample_qd]
  exact congrArg acknowledge (runCommand_qdSample w s)

theorem exec_qdSample_next {s t : State} {w : Wheel}
    (h : exec (.qdSample (BitVec.ofNat 3 (wheelNumber w))) s = .next t) :
    t.qd = s.qd.set w (sampledAt s w) ∧ t.params = s.params ∧ t.events = s.events := by
  rw [exec_qdSample] at h
  cases h
  exact ⟨rfl, rfl, rfl⟩

theorem exec_qdSample_badSel {sel : BitVec 3} (hsel : 2 ≤ sel.toNat) (s : State) :
    exec (.qdSample sel) s = failedWith 3#4 s := by
  show acknowledge (withSel (wheelOfSel? sel) qdSampleToRes0 s) = _
  rw [(wheelOfSel?_eq_none_iff sel).2 hsel, withSel_none]
  exact acknowledge_cmdFail .badSel s

theorem exec_qdSampleAll (s : State) : exec .qdSampleAll s = ranWith s s.port.res0 (bothSampled s) s.tach s.pid := by
  show acknowledge (cmdDone (qdSampleBoth s)) = _
  rw [qdSampleBoth_eq_bothSampled]
  rfl

/-- A command without a selector fails with BAD_SEL where SEL is not 0 (R86). -/
theorem exec_wrCmd_badSel_of_noSel {c : Word} (hop : c.toNat % 256 ∈ [0x00, 0x02, 0x03, 0x10, 0x11])
    (hsel : 256 ≤ c.toNat) (hc : c.toNat < 2048) (s : State) : exec (.wrCmd c) s = failedWith 3#4 s := by
  simp only [List.mem_cons, List.not_mem_nil, or_false] at hop
  refine exec_wrCmd_badSel hc ?_ ?_
  · simp only [List.mem_cons, List.not_mem_nil, or_false]
    omega
  · simp only [SelLegal, List.mem_cons, List.not_mem_nil, or_false]
    omega

/-! ## Missed edges (R145) -/

/-- Two steps of the Gray sequence end at the opposite channel state. -/
theorem grayCount_two_steps (sign : QdSign) (p : BitVec 2) : grayCount sign p (grayNext (grayNext p)) = none := by
  cases sign <;> revert p <;> decide

/-- Three steps of the Gray sequence end where one step against it does. -/
theorem grayCount_three_steps (sign : QdSign) (p : BitVec 2) :
    grayCount sign p (grayNext (grayNext (grayNext p))) = some (-signValue sign) := by
  cases sign <;> revert p <;> decide

/-- Four steps of the Gray sequence come back to the start. -/
theorem grayCount_four_steps (sign : QdSign) (p : BitVec 2) :
    grayCount sign p (grayNext (grayNext (grayNext (grayNext p)))) = some 0 := by
  cases sign <;> revert p <;> decide

section WheelAfter

variable {sign : QdSign} {n : BitVec 2} {q : QdWheel}

theorem wheelAfter_of_none (h : grayCount sign q.prev n = none) :
    (wheelAfter sign n q).last = .error ∧ (wheelAfter sign n q).pos = q.pos := by
  simp only [wheelAfter, h, and_self]

theorem wheelAfter_of_some {d : Int} (h : grayCount sign q.prev n = some d) :
    wheelAfter sign n q = { q with prev := n, pos := q.pos + BitVec.ofInt 32 d, last := resultOf (some d) } := by
  simp only [wheelAfter, h]

end WheelAfter

/-! ## The registers of the decoder (R138 to R144) -/

theorem wheelOffset_pos_toNat (w : Wheel) : (wheelOffset 0x040 w).toNat = 0x040 + 4 * wheelNumber w := by
  cases w <;> rfl

theorem readRule_pos (w : Wheel) : ReadRule (wheelOffset 0x040 w) (.rdPos w) (fun s => (s.qd.get w).pos) :=
  .intro (by cases w <;> rfl) fun _ => rfl

theorem writeRule_pos (w : Wheel) : WriteRule (wheelOffset 0x040 w) (.wrPos w)
    (fun v s => { s with qd := s.qd.set w { s.qd.get w with pos := v } }) :=
  .intro (fun _ => by cases w <;> rfl) fun _ _ => rfl

/-- A step that goes on to a read of POS makes the read answer the position it left (R138). -/
theorem run_two_rdPos {s t : State} {w : Wheel} {pins : Pins} {rest : List Event} (h : step s = .next t)
    (he : t.events = .hostRead pins (t.params.qtpBase + (0x040 + 4 * wheelNumber w)) 4 :: rest) :
    ∃ u, Host.Core.run core 2 s = .next u ∧ u.reply = .data (t.qd.get w).pos := by
  obtain ⟨-, -, hread, -⟩ := readRule_pos w
  exact ⟨_, run_two h (hread t pins rest (wheelOffset_pos_toNat w ▸ he)), rfl⟩

/-- Two 2-bit fields side by side in the low bits of a word, as a number. -/
theorem append_two_fields (lo hi : BitVec 2) : (0#28 ++ hi) ++ lo = BitVec.ofNat 32 (lo.toNat + 4 * hi.toNat) := by
  revert lo hi; decide

/-! ## The error count (R30, R141) -/

/-- A sample leaves the error count or counts one up, and never beyond 2^32 − 1. -/
theorem sampledWheel_errcnt_bounds (n : BitVec 2) (r : SampleResult) (q : QdWheel) :
    q.errcnt.toNat ≤ (sampledWheel n r q).errcnt.toNat ∧ (sampledWheel n r q).errcnt.toNat ≤ q.errcnt.toNat + 1 := by
  cases r with
  | error =>
    have hlt := q.errcnt.isLt
    show _ ≤ (errcntNext q.errcnt).toNat ∧ (errcntNext q.errcnt).toNat ≤ _
    rw [errcntNext_toNat]
    omega
  | _ => exact ⟨le_rfl, Nat.le_succ _⟩

end Sys2Proof.Machine
end

section
/-! PROOFS. The statements about the quadrature decoder: its samples, its reset and its registers (41_quad_decoder.md). -/

namespace Sys2Proof.Machine

/-- Settles O23, by the SEL: one that names a wheel samples it, one that names none fails. -/
theorem qdSampleOneWheel : Obligations.QdSampleOneWheel := by
  refine ⟨fun w => ?_, exec_qdSample, fun _ s hsel => exec_qdSample_badSel hsel s,
    fun _ s _ hc => exec_wrCmd_rsvdBits hc s⟩
  cases w with
  | left => exact decodeInvertsEncode (.qdSample 0#3)
  | right => exact decodeInvertsEncode (.qdSample 1#3)

/-- Settles O24: both wheels sampled from the state before, and the illegal words by the checks of a CMD write. -/
theorem qdSampleAllBothWheels : Obligations.QdSampleAllBothWheels :=
  ⟨decodeInvertsEncode .qdSampleAll, exec_qdSampleAll,
    fun _ s hop hsel hc => exec_wrCmd_badSel_of_noSel (by simp [hop]) hsel hc s,
    fun _ s _ hc => exec_wrCmd_rsvdBits hc s⟩

/-- Settles O25: the first sample leaves the other wheel and its pins alone, so the second one finds them as they were. -/
theorem sampleOrderUnobservable : Obligations.SampleOrderUnobservable := by
  intro s t u a first second hne ht hu ha
  obtain ⟨htqd, htparams, htevents⟩ := exec_qdSample_next ht
  obtain ⟨huqd, -, -⟩ := exec_qdSample_next hu
  have hsecond : sampledAt t second = sampledAt s second :=
    sampledAt_congr htparams htevents (by rw [htqd, PerWheel.get_set_other _ _ hne.symm])
  rw [exec_qdSampleAll] at ha
  cases ha
  rw [huqd, htqd, hsecond]
  exact (bothSampled_eq_set s hne).symm

/-- Settles O26: the step on a Strobe is the sample of both wheels. -/
theorem strobeSamplesBothWheels : Obligations.StrobeSamplesBothWheels := by
  intro s pins rest he
  refine ⟨channelNow_strobe he, ?_⟩
  rw [step_strobe he, qdSampleBoth_eq_bothSampled]

/-- Settles O28, by the Gray count of two, three and four steps. -/
theorem missedEdges : Obligations.MissedEdges := by
  intro s w pins rest he
  obtain ⟨hchannel, hstep⟩ := strobeSamplesBothWheels s pins rest he
  refine ⟨_, hstep, ?_⟩
  have hwheel : (bothSampled s).get w = wheelAfter s.params.qdSign (channelOf (pins.get w)) (s.qd.get w) := by
    rw [bothSampled_get, sampledAt, hchannel]
  simp only [hwheel]
  refine ⟨fun h => ?_, fun h => ?_, fun h => ?_⟩ <;> rw [h]
  · exact wheelAfter_of_none (grayCount_two_steps _ _)
  · rw [wheelAfter_of_some (grayCount_three_steps _ _), BitVec.ofInt_neg, ← BitVec.sub_eq_add_neg]
    exact ⟨rfl, rfl⟩
  · rw [wheelAfter_of_some (grayCount_four_steps _ _)]
    exact ⟨rfl, BitVec.add_zero _⟩

/-- Settles O29: the effect by evaluation, the illegal words by the checks of a CMD write, and the read after it as a second
step. -/
theorem qdResetZeroesCounters : Obligations.QdResetZeroesCounters := by
  refine ⟨decodeInvertsEncode .qdReset, fun _ => rfl,
    fun _ s hop hsel hc => exec_wrCmd_badSel_of_noSel (by simp [hop]) hsel hc s,
    fun _ s _ hc => exec_wrCmd_rsvdBits hc s, fun s w p q rest he => ?_⟩
  obtain ⟨-, -, hcommand⟩ := stepRunsDecodedInstruction s p
    (.hostRead q (s.params.qtpBase + (0x040 + 4 * wheelNumber w)) 4 :: rest) 0x008#12 .qdReset 0x00000003#32
  obtain ⟨t, ht, hstep⟩ := hcommand he (decodeInvertsEncode .qdReset)
  cases ht
  obtain ⟨u, hu, hreply⟩ := run_two_rdPos hstep (w := w) rfl
  exact ⟨u, hu, hreply.trans (by cases w <;> rfl)⟩

/-- Settles O30: the two rules of POS, and the read after the write as a second step. -/
theorem positionRegisters : Obligations.PositionRegisters := by
  refine ⟨readRule_pos, writeRule_pos, fun s w v p q rest he => ?_⟩
  obtain ⟨-, -, hwrite, -⟩ := writeRule_pos w
  have hstep := hwrite s p v _ (by rw [wheelOffset_pos_toNat, he])
  obtain ⟨u, hu, hreply⟩ := run_two_rdPos hstep (w := w) rfl
  exact ⟨u, hu, hreply.trans (by rw [PerWheel.get_set_same])⟩

/-- Settles O31: the two rules of ERR, and over all events what a step can make of a wheel. -/
theorem errorCountRegisters : Obligations.ErrorCountRegisters := by
  refine ⟨fun w => .intro (by cases w <;> rfl) fun _ => rfl,
    fun w => .intro (fun _ => by cases w <;> rfl) fun _ _ => rfl, fun s t w h hzero hreset => ?_⟩
  generalize ht : t.qd.get w = q
  cases ht ▸ step_wheel h w with
  | kept => exact ⟨le_rfl, Nat.le_succ _⟩
  | sampled => exact sampledWheel_errcnt_bounds _ _ _
  | zeroed hc => exact absurd hc hzero
  | loaded => exact ⟨le_rfl, Nat.le_succ _⟩
  | reset _ hr => exact absurd hr hreset

/-- Settles O32: each register by how its offset decodes and what its instruction answers. -/
theorem qdObservationRegisters : Obligations.QdObservationRegisters := by
  refine ⟨.intro rfl fun s => ?pins, .intro rfl fun s => ?prev, .intro rfl fun s => ?last,
    .intro (fun _ => rfl) fun _ _ => rfl, .intro (fun _ => rfl) fun _ _ => rfl, .intro (fun _ => rfl) fun _ _ => rfl⟩
  case pins =>
    rw [channelNow_eq_pinsAt, channelNow_eq_pinsAt, ← append_two_fields]
    rfl
  case prev =>
    rw [← append_two_fields]
    rfl
  case last =>
    show answer ((0#28 ++ lastCode s.qd.right.last) ++ lastCode s.qd.left.last) s = _
    rw [append_two_fields]
    cases s.qd.left.last <;> cases s.qd.right.last <;> rfl

end Sys2Proof.Machine
end

section
/-! SUPPORT. The tachometer in the words of the statements: its two registers as numbers, a tick as counting or pushing, the history
by age, the computed speeds, and what a step can make of the tachometer and which event did it (42_tachometer.md). -/

namespace Sys2Proof.Machine

/-! ## The registers as numbers (R160, R161, R165, R171) -/

theorem tachCtrlWord_eq (t : Tach) : tachCtrlWord t = BitVec.ofNat 32 (t.div.toNat + 65536 * t.periodMs.toNat) := by
  have hdiv := t.div.isLt
  apply BitVec.eq_of_toNat_eq
  rw [tachCtrlWord, BitVec.toNat_append, ← Nat.shiftLeft_add_eq_or_of_lt hdiv, Nat.shiftLeft_eq, BitVec.toNat_ofNat]
  omega

theorem tachStateWord_eq (t : Tach) : tachStateWord t = BitVec.ofNat 32 (t.idx.val + 65536 * t.divcnt.toNat) := by
  have hidx : (BitVec.ofNat 5 t.idx.val).toNat = t.idx.val := by rw [BitVec.toNat_ofNat]; omega
  apply BitVec.eq_of_toNat_eq
  rw [tachStateWord, BitVec.toNat_append, ← Nat.shiftLeft_add_eq_or_of_lt (BitVec.isLt _), BitVec.toNat_append,
    ← Nat.shiftLeft_add_eq_or_of_lt (BitVec.isLt _), hidx, Nat.shiftLeft_eq, Nat.shiftLeft_eq, BitVec.toNat_ofNat]
  simp only [BitVec.toNat_ofNat]
  omega

/-- A field of TACH_CTRL as stored, as a number: at least 1 (R32). -/
theorem atLeastOne_eq (v : BitVec 16) : atLeastOne v = BitVec.ofNat 16 (max 1 v.toNat) := by
  unfold atLeastOne
  split
  next h => rw [h]; rfl
  next h =>
    have hpos : v.toNat ≠ 0 := fun h0 => h (BitVec.eq_of_toNat_eq h0)
    rw [max_eq_right (by omega), BitVec.ofNat_toNat, BitVec.setWidth_eq]

theorem atLeastOne_ne_zero (v : BitVec 16) : atLeastOne v ≠ 0#16 := fun h => by
  have hpos := atLeastOne_pos v
  rw [h] at hpos
  cases hpos

theorem tachConfigure_eq (v : Word) (t : Tach) : tachConfigure v t = { t with
    div := BitVec.ofNat 16 (max 1 (v.toNat % 65536))
    periodMs := BitVec.ofNat 16 (max 1 (v.toNat / 65536))
    divcnt := 0#16 } := by
  have hv := v.isLt
  have hlow : (v.extractLsb' 0 16).toNat = v.toNat % 65536 := by simp [BitVec.extractLsb'_toNat]
  have hhigh : (v.extractLsb' 16 16).toNat = v.toNat / 65536 := by
    rw [BitVec.extractLsb'_toNat, Nat.shiftRight_eq_div_pow]
    omega
  rw [tachConfigure, atLeastOne_eq, atLeastOne_eq, hlow, hhigh]

/-- The statements' offset of any of the 32 words of a history window is the encoder's (R83). -/
theorem slotOffset_eq_of_lt (w : Wheel) {k : Nat} (hk : k < 32) : slotOffset w k = histOffset w (BitVec.ofNat 5 k) := by
  have hw : wheelNumber w < 2 := by cases w <;> decide
  apply BitVec.eq_of_toNat_eq
  rw [histOffset_toNat, slotOffset, BitVec.toNat_ofNat, BitVec.toNat_ofNat]
  omega

theorem readRule_hist (w : Wheel) {k : Nat} (hk : k < 32) :
    ReadRule (slotOffset w k) (.rdHist w (BitVec.ofNat 5 k)) (fun s => histRead s.tach w (BitVec.ofNat 5 k)) :=
  .intro (slotOffset_eq_of_lt w hk ▸ decode_read_histOffset w _) fun _ => rfl

theorem writeRule_hist (w : Wheel) {k : Nat} (hk : k < 32) :
    WriteRule (slotOffset w k) (.wrHist w (BitVec.ofNat 5 k)) (fun _ s => s) :=
  .intro (slotOffset_eq_of_lt w hk ▸ decode_write_histOffset w _) fun _ _ => rfl

theorem histRead_slot (t : Tach) (w : Wheel) (k : Fin 17) : histRead t w (BitVec.ofNat 5 k.val) = (t.hist.get w)[k] := by
  have hk : (BitVec.ofNat 5 k.val).toNat = k.val := by rw [BitVec.toNat_ofNat]; omega
  simp [histRead, hk]

/-! ## A tick (R162, R163) -/

/-- A push at the positions of the state (R162); the other fields of the tachometer do not matter. -/
theorem pushed_tachPush (s : State) {t : Tach} (hhist : t.hist = s.tach.hist) (hidx : t.idx = s.tach.idx) :
    Pushed s (tachPush s.qd.left.pos s.qd.right.pos t) := by
  refine ⟨fun w k => ?_, ?_⟩
  · rw [tachPush_hist, hhist, hidx]
    cases w <;> rfl
  · rw [← hidx]
    rfl

/-- A tick is a tick of the divider in the words of the statements: it counts below DIV and pushes on reaching it. -/
theorem ticked_tachTick (s : State) : Ticked s (tachTick s).tach := by
  have hdiv := s.tach.div.isLt
  by_cases hlt : s.tach.divcnt.toNat + 1 < s.tach.div.toNat
  · rw [tachTick_counts s hlt]
    refine ⟨rfl, rfl, rfl, fun _ => ⟨?_, rfl, rfl⟩, fun hge => by omega⟩
    rw [BitVec.toNat_ofNat]
    omega
  · rw [tachTick_pushes s (Nat.not_lt.1 hlt)]
    exact ⟨rfl, rfl, rfl, fun h => absurd h hlt, fun _ => ⟨rfl, pushed_tachPush s rfl rfl⟩⟩

theorem exec_tachTick (s : State) :
    exec .tachTick s = ranWith s s.port.res0 s.qd (tachTick s).tach s.pid := by
  show acknowledge (cmdDone (tachTick s)) = _
  rw [tachTick_eq s]
  rfl

/-! ## The history by age (R162, R166) -/

/-- The slot of the entry of age j, with i the next slot to write. -/
def slotOfAge (i j : Fin 17) : Fin 17 := ⟨(i.val + 16 - j.val) % 17, by omega⟩

theorem entryOfAge_eq {t : Tach} {j k : Fin 17} (hk : slotOfAge t.idx j = k) (w : Wheel) :
    entryOfAge t w j = (t.hist.get w)[k] := by
  subst hk
  rfl

/-- The next slot to write holds the oldest entry. -/
theorem slotOfAge_oldest (i : Fin 17) : slotOfAge i 16 = i := by
  apply Fin.ext
  show (i.val + 16 - 16) % 17 = i.val
  omega

theorem slotOfAge_nextSlot_zero (i : Fin 17) : slotOfAge (nextSlot i) 0 = i := by
  apply Fin.ext
  show ((i.val + 1) % 17 + 16 - 0) % 17 = i.val
  omega

/-- A push makes every slot one push older. -/
theorem slotOfAge_nextSlot_succ (i : Fin 17) (j : Fin 16) : slotOfAge (nextSlot i) j.succ = slotOfAge i j.castSucc := by
  apply Fin.ext
  show ((i.val + 1) % 17 + 16 - (j.val + 1)) % 17 = (i.val + 16 - j.val) % 17
  omega

/-- Only the oldest entry stands in the next slot to write. -/
theorem slotOfAge_castSucc_ne (i : Fin 17) (j : Fin 16) : slotOfAge i j.castSucc ≠ i := fun h => by
  have hval : (i.val + 16 - j.val) % 17 = i.val := congrArg Fin.val h
  omega

section Push

variable {s : State} {t : Tach} (h : Pushed s t)
include h

theorem idx_of_pushed : t.idx = nextSlot s.tach.idx := by
  obtain ⟨-, hidx⟩ := h
  exact Fin.ext hidx

theorem newest_of_pushed (w : Wheel) : entryOfAge t w 0 = (s.qd.get w).pos := by
  have hslot : slotOfAge t.idx 0 = s.tach.idx := by rw [idx_of_pushed h, slotOfAge_nextSlot_zero]
  obtain ⟨hhist, -⟩ := h
  rw [entryOfAge_eq hslot, hhist, if_pos rfl]

theorem older_of_pushed (w : Wheel) (j : Fin 16) : entryOfAge t w j.succ = entryOfAge s.tach w j.castSucc := by
  have hslot : slotOfAge t.idx j.succ = slotOfAge s.tach.idx j.castSucc := by
    rw [idx_of_pushed h, slotOfAge_nextSlot_succ]
  obtain ⟨hhist, -⟩ := h
  rw [entryOfAge_eq hslot, hhist, if_neg (slotOfAge_castSucc_ne _ j), entryOfAge_eq rfl]

end Push

/-! ## The speeds (R167, R168) -/

theorem oldest_eq (t : Tach) (w : Wheel) : oldest t w = (entryOfAge t w 16).toInt := by
  rw [entryOfAge_eq (slotOfAge_oldest t.idx)]
  rfl

theorem newest_eq (t : Tach) (w : Wheel) : newest t w = (entryOfAge t w 0).toInt := rfl

/-- A difference of int32s taken modulo 2^32 is the difference of their patterns. -/
theorem wrap32_sub (a b : Word) : wrap32 (a.toInt - b.toInt) = (a - b).toInt := by
  rw [wrap32, sext32, bits32, BitVec.toInt_ofInt, BitVec.toInt_sub]

/-- A computed speed is written without loss: it is saturated to int32 (R167). -/
theorem toInt_bits32_speedOf (t : Tach) (w : Wheel) : (bits32 (speedOf t w)).toInt =
    max (-2147483647) (min 2147483647
      (((entryOfAge t w 16 - entryOfAge t w 0).toInt * 1000).tdiv (t.periodMs.toNat * 16))) := by
  have hspeed := speedOf_eq t w
  rw [oldest_eq, newest_eq, wrap32_sub] at hspeed
  rw [← hspeed]
  exact sext32_bits32 (by omega) (by omega)

/-- The two speeds that TACH_COMPUTE writes (R168). -/
def computedSpeeds (t : Tach) : PerWheel Word := { left := bits32 (speedOf t .left), right := bits32 (speedOf t .right) }

theorem computedSpeeds_get (t : Tach) (w : Wheel) : (computedSpeeds t).get w = bits32 (speedOf t w) := by
  cases w <;> rfl

theorem exec_tachCompute (s : State) : exec .tachCompute s =
    ranWith s s.port.res0 s.qd { s.tach with speed := computedSpeeds s.tach } s.pid := rfl

/-- A rise by less than 2^31, modulo 2^32, is seen as the negative difference (R167). -/
theorem toInt_sub_add_ofNat (a : Word) {S : Nat} (hS : S < 2 ^ 31) : (a - (a + BitVec.ofNat 32 S)).toInt = -(S : Int) := by
  have hneg : a - (a + BitVec.ofNat 32 S) = BitVec.ofInt 32 (-(S : Int)) := by
    rw [sub_add_cancel_left, BitVec.ofInt_neg, BitVec.ofInt_natCast]
  rw [hneg]
  exact sext32_bits32 (by omega) (by omega)

/-- The speed of a fall by S that fits int32 is not saturated. -/
theorem saturated_neg_tdiv {S d : Nat} (hS : S * 1000 < 2 ^ 31) :
    max (-2147483647) (min 2147483647 ((-(S : Int) * 1000).tdiv d)) = -((S * 1000 / d : Nat) : Int) := by
  have hquot : (-(S : Int) * 1000).tdiv d = -((S * 1000 / d : Nat) : Int) := by
    rw [Int.neg_mul, Int.neg_tdiv]
    rfl
  have hle : S * 1000 / d ≤ S * 1000 := Nat.div_le_self _ _
  rw [hquot]
  generalize S * 1000 / d = q at hle ⊢
  omega

/-! ## The tachometer after a step -/

/-- What an event can make of the tachometer, and which event did it (R161, R163, R164, R168, R250). -/
inductive TachEffect (s : State) : Tach → Prop where
  | kept : TachEffect s s.tach
  | reset (h : s.ResetNext) : TachEffect s Tach.reset
  | ticked (t : Tach) (h : s.TickNext ∨ s.CommandNext 0x00000010#32) (ht : Ticked s t) : TachEffect s t
  | computed (speed : PerWheel Word) (h : s.CommandNext 0x00000011#32) : TachEffect s { s.tach with speed := speed }
  | configured (v : Word) (h : s.WritesNext 0x01C v) : TachEffect s (tachConfigure v s.tach)

/-- Each effect of a step, seen at the tachometer. -/
theorem StepEffect.tach {s u : State} (h : StepEffect s u) : TachEffect s u.tach := by
  cases h with
  | reset pins h => exact .reset h
  | tick h => exact .ticked _ (.inl h) (ticked_tachTick s)
  | tachTick h => exact .ticked _ (.inr h) (ticked_tachTick s)
  | tachCompute h => exact .computed _ h
  | wrTachCtrl v h => exact .configured v h
  | wrPid off v u _ hu =>
    obtain ⟨a, -, r, x, -, -, rfl, -⟩ := hu
    exact .kept
  | _ => exact .kept

/-- What a step that goes on makes of the tachometer. -/
theorem step_tach {s t : State} (h : step s = .next t) : TachEffect s t.tach := by
  obtain ⟨u, hu, ht⟩ := step_effect h
  have htach : t.tach = u.tach := by rw [ht]
  exact htach ▸ hu.tach

section TachChanges

variable {s : State} {t : Tach} (h : TachEffect s t)
include h

theorem TachEffect.ctrl_changed (hne : t.div ≠ s.tach.div ∨ t.periodMs ≠ s.tach.periodMs) :
    (∃ v, s.WritesNext 0x01C v) ∨ s.ResetNext := by
  cases h with
  | reset hr => exact .inr hr
  | configured v hw => exact .inl ⟨v, hw⟩
  | ticked _ _ ht =>
    obtain ⟨hdiv, hperiod, -⟩ := ht
    exact hne.elim (absurd hdiv) (absurd hperiod)
  | _ => exact hne.elim (absurd rfl) (absurd rfl)

theorem TachEffect.div_ne_zero (hbefore : s.tach.div ≠ 0#16) : t.div ≠ 0#16 := by
  cases h with
  | reset => decide
  | configured v => exact atLeastOne_ne_zero _
  | ticked _ _ ht =>
    obtain ⟨hdiv, -⟩ := ht
    exact hdiv ▸ hbefore
  | _ => exact hbefore

theorem TachEffect.periodMs_ne_zero (hbefore : s.tach.periodMs ≠ 0#16) : t.periodMs ≠ 0#16 := by
  cases h with
  | reset => decide
  | configured v => exact atLeastOne_ne_zero _
  | ticked _ _ ht =>
    obtain ⟨-, hperiod, -⟩ := ht
    exact hperiod ▸ hbefore
  | _ => exact hbefore

theorem TachEffect.speed_changed (hne : t.speed ≠ s.tach.speed) : s.CommandNext 0x00000011#32 ∨ s.ResetNext := by
  cases h with
  | reset hr => exact .inr hr
  | computed _ hc => exact .inl hc
  | ticked _ _ ht =>
    obtain ⟨-, -, hspeed, -⟩ := ht
    exact absurd hspeed hne
  | _ => exact absurd rfl hne

theorem TachEffect.history_changed (hne : t.hist ≠ s.tach.hist ∨ t.idx ≠ s.tach.idx) :
    s.TickNext ∨ s.CommandNext 0x00000010#32 ∨ s.ResetNext := by
  cases h with
  | reset hr => exact .inr (.inr hr)
  | ticked _ hev => exact hev.imp_right .inl
  | _ => exact hne.elim (absurd rfl) (absurd rfl)

end TachChanges

end Sys2Proof.Machine
end

section
/-! PROOFS. The statements about the tachometer: its ticks, its history, its speeds and its registers (42_tachometer.md). -/

namespace Sys2Proof.Machine

/-- Settles O35: the read and the write of TACH_CTRL, and over all events what a step can make of the tachometer. -/
theorem tachCtrlRegister : Obligations.TachCtrlRegister := by
  refine ⟨.intro rfl fun s => ?_, .intro (fun _ => rfl) fun v s => ?_, fun s t h => ?_⟩
  · rw [← tachCtrlWord_eq]
    rfl
  · rw [← tachConfigure_eq]
    rfl
  · have htach := step_tach h
    exact ⟨htach.ctrl_changed, htach.div_ne_zero, htach.periodMs_ne_zero⟩

/-- Settles O36: a tick of the divider, and the illegal words by the checks of a CMD write. -/
theorem tachTickCountsAndPushes : Obligations.TachTickCountsAndPushes :=
  ⟨decodeInvertsEncode .tachTick, fun s => ⟨_, exec_tachTick s, ticked_tachTick s⟩,
    fun _ s hop hsel hc => exec_wrCmd_badSel_of_noSel (by simp [hop]) hsel hc s,
    fun _ s _ hc => exec_wrCmd_rsvdBits hc s⟩

/-- Settles O37: the command and the event run one operation, which changes the tachometer alone. -/
theorem tickEventCountsAndPushes : Obligations.TickEventCountsAndPushes := by
  intro s rest he
  refine ⟨_, exec_tachTick s, ticked_tachTick s, ?_⟩
  rw [step_tick he, tachTick_eq s]
  rfl

/-- Settles O38: the Tick pushes, and a push shifts the slots of all ages by one. -/
theorem pushAgesTheHistory : Obligations.PushAgesTheHistory := by
  rintro s t w ⟨rest, he⟩ h hreach
  obtain ⟨tach, -, ⟨-, -, -, -, hpush⟩, hstep⟩ := tickEventCountsAndPushes s rest he
  obtain ⟨-, hpushed⟩ := hpush hreach
  rw [hstep] at h
  cases h
  exact ⟨newest_of_pushed hpushed w, older_of_pushed hpushed w⟩

/-- Settles O39: both speeds by the formula of R167, and the illegal words by the checks of a CMD write. -/
theorem tachComputeWritesSpeeds : Obligations.TachComputeWritesSpeeds := by
  refine ⟨decodeInvertsEncode .tachCompute, fun s => ⟨_, exec_tachCompute s, fun w _ => ?_⟩,
    fun _ s hop hsel hc => exec_wrCmd_badSel_of_noSel (by simp [hop]) hsel hc s,
    fun _ s _ hc => exec_wrCmd_rsvdBits hc s⟩
  rw [computedSpeeds_get, toInt_bits32_speedOf]

/-- Settles O40, from the exact formula: the difference of the entries is −S, and its quotient fits. -/
theorem risingPositionGivesNegativeSpeed : Obligations.RisingPositionGivesNegativeSpeed := by
  intro s t w S h hperiod hS hrise
  obtain ⟨-, hcompute, -⟩ := tachComputeWritesSpeeds
  obtain ⟨speed, hexec, hspeed⟩ := hcompute s
  rw [hexec] at h
  cases h
  calc (speed.get w).toInt
      = max (-2147483647) (min 2147483647 ((-(S : Int) * 1000).tdiv (s.tach.periodMs.toNat * 16 : Nat))) := by
        rw [hspeed w hperiod, hrise, toInt_sub_add_ofNat _ (by omega)]
        rfl
    _ = _ := saturated_neg_tdiv hS

/-- Settles O41: each register by how its offset decodes and what its instruction answers, and over all events what a step can
make of the tachometer. -/
theorem tachObservationRegisters : Obligations.TachObservationRegisters := by
  refine ⟨.intro rfl fun s => ?_, .intro (fun _ => rfl) fun _ _ => rfl,
    fun w => .intro (by cases w <;> rfl) fun _ => rfl, fun w => .intro (fun _ => by cases w <;> rfl) fun _ _ => rfl,
    fun w k => ?_, fun w k h17 h32 => ?_, fun w _ h32 => writeRule_hist w h32, fun s t h => ?_⟩
  · rw [← tachStateWord_eq]
    rfl
  · simpa only [histRead_slot] using readRule_hist w (show k.val < 32 by omega)
  · have hslot : 17 ≤ (BitVec.ofNat 5 k).toNat := by rw [BitVec.toNat_ofNat]; omega
    simpa only [histRead_above hslot] using readRule_hist w h32
  · have htach := step_tach h
    exact ⟨htach.speed_changed, htach.history_changed⟩

end Sys2Proof.Machine
end

section
/-! SUPPORT. The PID unit in the words of the statements: its two commands on an axis that exists and on one that does not, the
bounds of an update, the registers of an axis block, and what a step can make of an axis and which event did it (43_pid.md). -/

namespace Sys2Proof.Machine

/-! ## The command words (R84, R85) -/

theorem cmdWord_eq_ofNat (op : BitVec 8) (sel : BitVec 3) : cmdWord op sel = BitVec.ofNat 32 (op.toNat + 256 * sel.toNat) :=
  command_word_eq (rsvdField_cmdWord op sel) (by rw [opField_cmdWord]) (selField_cmdWord op sel)

/-- The word of an operation with an axis number as its SEL. -/
theorem decode_cmd_axis (k : CmdOp) (a : Axis) :
    decode (.cmd (BitVec.ofNat 32 (opNumber k + 256 * axisNumber a))) = decodeOp (BitVec.ofNat 3 (axisNumber a)) k := by
  have hop : (BitVec.ofNat 8 (opNumber k)).toNat = opNumber k := by cases k <;> rfl
  have hword := decode_cmdWord k (BitVec.ofNat 3 (axisNumber a))
  rwa [cmdWord_eq_ofNat, hop, axisNumber_toNat] at hword

/-! ## PID_UPDATE and PID_RESET (R191 to R193) -/

theorem pidUpdate_eq (a : Axis) (s : State) : pidUpdate a s = { s with
    port := { s.port with res0 := BitVec.ofInt 32 (pidOutput (s.pid.get a) s.port.arg0 s.port.arg1) }
    pid := s.pid.set a (axisAfter (s.pid.get a) s.port.arg0 s.port.arg1) } := by
  simp only [pidUpdate, pidUpdateAxis_eq]
  rfl

theorem exec_pidUpdate {a : Axis} {s : State} (ha : axisPresent s.params.numPidAxes a) :
    exec (.pidUpdate (BitVec.ofNat 3 (axisNumber a))) s =
      ranWith s (BitVec.ofInt 32 (pidOutput (s.pid.get a) s.port.arg0 s.port.arg1)) s.qd s.tach
        (s.pid.set a (axisAfter (s.pid.get a) s.port.arg0 s.port.arg1)) := by
  show acknowledge (runCommand .pidUpdate (BitVec.ofNat 3 (axisNumber a)) s) = _
  rw [runCommand_pidUpdate ha, pidUpdate_eq]
  rfl

theorem exec_pidReset {a : Axis} {s : State} (ha : axisPresent s.params.numPidAxes a) :
    exec (.pidReset (BitVec.ofNat 3 (axisNumber a))) s =
      ranWith s s.port.res0 s.qd s.tach (s.pid.set a { s.pid.get a with lasterr := 0#32, integral := 0#32 }) := by
  show acknowledge (withSel (axisOf? s.params.numPidAxes (BitVec.ofNat 3 (axisNumber a))) pidClear s) = _
  rw [axisOf?_number ha, withSel_some]
  rfl

/-- A command on an axis fails with BAD_SEL where its SEL names no axis (R192, R193, R199). -/
theorem acknowledge_withSel_absentAxis {sel : BitVec 3} {s : State} (h : s.params.numPidAxes.count ≤ sel.toNat)
    (run : Axis → State → State) :
    acknowledge (withSel (axisOf? s.params.numPidAxes sel) run s) = failedWith 3#4 s := by
  rw [(axisOf?_eq_none_iff _ sel).2 h, withSel_none]
  exact acknowledge_cmdFail .badSel s

theorem exec_pidUpdate_badSel {sel : BitVec 3} {s : State} (h : s.params.numPidAxes.count ≤ sel.toNat) :
    exec (.pidUpdate sel) s = failedWith 3#4 s :=
  acknowledge_withSel_absentAxis h pidUpdate

theorem exec_pidReset_badSel {sel : BitVec 3} {s : State} (h : s.params.numPidAxes.count ≤ sel.toNat) :
    exec (.pidReset sel) s = failedWith 3#4 s :=
  acknowledge_withSel_absentAxis h pidClear

/-! ## The bounds of an update (R200) -/

section Bounds

variable (x : PidAxis) (m t : Word)

/-- A value clamped to ± a word is written without loss, whatever the sign of the word. -/
theorem toInt_ofInt_clamped (v : Int) (b : Word) :
    (BitVec.ofInt 32 (min (max v (-b.toInt)) b.toInt)).toInt = min (max v (-b.toInt)) b.toInt := by
  have hb : -2147483648 ≤ b.toInt ∧ b.toInt ≤ 2147483647 := sext32_bounds b
  exact sext32_bits32 (by omega) (by omega)

theorem axisAfter_lasterr : (axisAfter x m t).lasterr.toInt = pidError m t :=
  sext32_bits32 (by unfold pidError; omega) (by unfold pidError; omega)

theorem axisAfter_integral : (axisAfter x m t).integral.toInt = pidIntegral x m t :=
  toInt_ofInt_clamped _ x.aw

theorem toInt_pidOutput : (BitVec.ofInt 32 (pidOutput x m t)).toInt = pidOutput x m t :=
  toInt_ofInt_clamped _ x.maxout

variable {x}

theorem pidIntegral_bounds (h : 0 ≤ x.aw.toInt) : -x.aw.toInt ≤ pidIntegral x m t ∧ pidIntegral x m t ≤ x.aw.toInt :=
  clamp_bounds (by omega)

theorem pidOutput_bounds (h : 0 ≤ x.maxout.toInt) :
    -x.maxout.toInt ≤ pidOutput x m t ∧ pidOutput x m t ≤ x.maxout.toInt :=
  clamp_bounds (by omega)

end Bounds

/-! ## The registers of an axis block (R82, R194 to R199) -/

theorem axisOffset_toNat {a r : Nat} (ha : a ≤ 7) (hr : r ≤ 7) : (axisOffset a r).toNat = 0x200 + 0x20 * a + 4 * r := by
  rw [axisOffset, BitVec.toNat_ofNat]
  omega

/-- The statements' offset of a word of an axis block is the encoder's. -/
theorem axisOffset_eq_pidOffset (a : Axis) (r : BitVec 3) :
    axisOffset (axisNumber a) r.toNat = pidOffset (BitVec.ofNat 3 (axisNumber a)) r := by
  have ha : axisNumber a ≤ 7 := by cases a <;> decide
  apply BitVec.eq_of_toNat_eq
  rw [pidOffset_toNat, axisNumber_toNat, axisOffset_toNat ha (by omega)]

theorem pidRead_number (a : Axis) (reg : PidAxis → Word) (s : State) :
    pidRead (BitVec.ofNat 3 (axisNumber a)) reg s =
      if axisNumber a < s.params.numPidAxes.count then reg (s.pid.get a) else 0#32 := by
  split
  next h => exact pidRead_present h reg
  next h => exact pidRead_absent ((Nat.not_lt.1 h).trans_eq (axisNumber_toNat a).symm) reg

theorem pidWrite_number (a : Axis) (upd : PidAxis → PidAxis) (s : State) :
    pidWrite (BitVec.ofNat 3 (axisNumber a)) upd s =
      if axisNumber a < s.params.numPidAxes.count then { s with pid := s.pid.set a (upd (s.pid.get a)) } else s := by
  split
  next h => exact pidWrite_present h upd
  next h => exact pidWrite_absent ((Nat.not_lt.1 h).trans_eq (axisNumber_toNat a).symm) upd

/-- The read rule of word r of an axis block, from the instruction the word decodes to. -/
theorem readRule_pid (a : Axis) (r : BitVec 3) {i : Instr} (reg : PidAxis → Word)
    (hd : decodePidRead (BitVec.ofNat 3 (axisNumber a)) r = .instr i)
    (hx : ∀ s, exec i s = answer (pidRead (BitVec.ofNat 3 (axisNumber a)) reg s) s) :
    ReadRule (axisOffset (axisNumber a) r.toNat) i
      (fun s => if axisNumber a < s.params.numPidAxes.count then reg (s.pid.get a) else 0#32) := by
  refine .intro ?_ fun s => ?_
  · rw [axisOffset_eq_pidOffset, decode_read_pidOffset, hd]
  · rw [hx, pidRead_number]
    rfl

/-- The write rule of word r of an axis block, from the instruction the word decodes to. -/
theorem writeRule_pid (a : Axis) (r : BitVec 3) {i : Word → Instr} (upd : Word → PidAxis → PidAxis)
    (hd : ∀ v, decodePidWrite (BitVec.ofNat 3 (axisNumber a)) r v = .instr (i v))
    (hx : ∀ v s, exec (i v) s = acknowledge (pidWrite (BitVec.ofNat 3 (axisNumber a)) (upd v) s)) :
    WriteRule (axisOffset (axisNumber a) r.toNat) i (fun v s =>
      if axisNumber a < s.params.numPidAxes.count then { s with pid := s.pid.set a (upd v (s.pid.get a)) } else s) := by
  refine .intro (fun v => ?_) fun v s => ?_
  · rw [axisOffset_eq_pidOffset, decode_write_pidOffset, hd]
  · rw [hx, pidWrite_number]
    rfl

/-- No word of the block of an absent axis names a register (R199). -/
theorem not_mapped_of_absentAxis {n a r : Nat} (ha : n ≤ a) (hr : r ≤ 7) : ¬ MappedOffset n (0x200 + 0x20 * a + 4 * r) := by
  rintro (hlow | ⟨k, hk, hslot⟩ | ⟨b, q, hb, hq, haxis⟩)
  · simp only [List.mem_cons, List.not_mem_nil, or_false] at hlow
    omega
  · omega
  · omega

/-! ## An axis after a step -/

/-- What an event can make of the axis a, and which event did it (R192 to R198, R250). -/
inductive AxisEffect (s : State) (a : Axis) : PidAxis → Prop where
  | kept : AxisEffect s a (s.pid.get a)
  | configured (x : PidAxis) (hlasterr : x.lasterr = (s.pid.get a).lasterr)
      (hintegral : x.integral = (s.pid.get a).integral) : AxisEffect s a x
  | updated (h : s.CommandNext (BitVec.ofNat 32 (0x020 + 256 * axisNumber a))) :
      AxisEffect s a (axisAfter (s.pid.get a) s.port.arg0 s.port.arg1)
  | cleared (h : s.CommandNext (BitVec.ofNat 32 (0x021 + 256 * axisNumber a))) :
      AxisEffect s a { s.pid.get a with lasterr := 0#32, integral := 0#32 }
  | reset (h : s.ResetNext) : AxisEffect s a PidAxis.reset

/-- What happens to one axis, seen at any axis: the others are kept (R192, R193). -/
theorem AxisEffect.of_set {s : State} {a b : Axis} {x : PidAxis} (h : AxisEffect s b x) :
    AxisEffect s a ((s.pid.set b x).get a) := by
  by_cases hab : a = b
  · subst hab
    rwa [PidBank.get_set_same]
  · rw [PidBank.get_set_other _ _ hab]
    exact .kept

/-- Each effect of a step, seen at one axis. -/
theorem StepEffect.axis {s u : State} (h : StepEffect s u) (a : Axis) : AxisEffect s a (u.pid.get a) := by
  cases h with
  | reset pins h =>
    have hreset : (resetWith pins s).pid.get a = PidAxis.reset := by cases a <;> rfl
    exact hreset ▸ .reset h
  | pidUpdate b _ h =>
    show AxisEffect s a ((Machine.pidUpdate b s).pid.get a)
    rw [pidUpdate_eq]
    exact .of_set (.updated h)
  | pidReset b _ h => exact .of_set (.cleared h)
  | wrPid off v u _ hu =>
    obtain ⟨b, -, r, x, -, -, rfl, hlasterr, hintegral, -⟩ := hu
    exact .of_set (.configured x hlasterr hintegral)
  | tick => exact (tachTick_pid s).symm ▸ .kept
  | tachTick =>
    show AxisEffect s a ((Machine.tachTick s).pid.get a)
    exact (tachTick_pid s).symm ▸ .kept
  | _ => exact .kept

/-- What a step that goes on makes of one axis. -/
theorem step_axis {s t : State} (h : step s = .next t) (a : Axis) : AxisEffect s a (t.pid.get a) := by
  obtain ⟨u, hu, ht⟩ := step_effect h
  have hpid : t.pid = u.pid := by rw [ht]
  exact hpid ▸ hu.axis a

theorem AxisEffect.state_changed {s : State} {a : Axis} {x : PidAxis} (h : AxisEffect s a x)
    (hne : x.lasterr ≠ (s.pid.get a).lasterr ∨ x.integral ≠ (s.pid.get a).integral) :
    s.ResetNext ∨ s.CommandNext (BitVec.ofNat 32 (0x020 + 256 * axisNumber a)) ∨
      s.CommandNext (BitVec.ofNat 32 (0x021 + 256 * axisNumber a)) := by
  cases h with
  | kept => exact hne.elim (absurd rfl) (absurd rfl)
  | configured _ hlasterr hintegral => exact hne.elim (absurd hlasterr) (absurd hintegral)
  | updated h => exact .inr (.inl h)
  | cleared h => exact .inr (.inr h)
  | reset h => exact .inl h

end Sys2Proof.Machine
end

section
/-! PROOFS. The statements about the PID unit: its two commands, the bounds of an update and its registers (43_pid.md). -/

namespace Sys2Proof.Machine

/-- Settles O42, by the SEL: one that names an axis updates it, one that names none fails. -/
theorem pidUpdateOneAxis : Obligations.PidUpdateOneAxis :=
  ⟨decode_cmd_axis .pidUpdate, fun _ _ ha => exec_pidUpdate ha, fun _ _ hsel => exec_pidUpdate_badSel hsel,
    fun _ s _ hc => exec_wrCmd_rsvdBits hc s⟩

/-- Settles O43: the integral and the output are clamped to bounds that a legal axis orders, and no value is lost when it is
stored. -/
theorem pidUpdateStaysInBounds : Obligations.PidUpdateStaysInBounds := by
  rintro a s t ha ⟨haw, hmaxout, -⟩ h
  rw [exec_pidUpdate ha] at h
  cases h
  obtain ⟨hintegralLow, hintegralHigh⟩ := pidIntegral_bounds s.port.arg0 s.port.arg1 haw
  obtain ⟨houtputLow, houtputHigh⟩ := pidOutput_bounds s.port.arg0 s.port.arg1 hmaxout
  simp only [PidBank.get_set_same, axisAfter_lasterr, axisAfter_integral, toInt_pidOutput, and_true]
  exact ⟨hintegralLow, hintegralHigh, houtputLow, houtputHigh⟩

/-- Settles O44: the output and the axis afterwards are written out in the axis and the two operands. -/
theorem pidUpdateDependsOnAxisOnly : Obligations.PidUpdateDependsOnAxisOnly := by
  intro a s₁ s₂ t₁ t₂ ha₁ ha₂ haxis harg0 harg1 h₁ h₂
  rw [exec_pidUpdate ha₁, haxis, harg0, harg1] at h₁
  rw [exec_pidUpdate ha₂] at h₂
  cases h₁
  cases h₂
  exact ⟨rfl, by rw [PidBank.get_set_same, PidBank.get_set_same]⟩

/-- Settles O45, by the SEL: one that names an axis clears its state, one that names none fails. -/
theorem pidResetOneAxis : Obligations.PidResetOneAxis :=
  ⟨decode_cmd_axis .pidReset, fun _ _ ha => exec_pidReset ha, fun _ _ hsel => exec_pidReset_badSel hsel,
    fun _ s _ hc => exec_wrCmd_rsvdBits hc s⟩

/-- Settles O46, from the rules of the words 0 to 4 of an axis block; AW and MAXOUT store their legal patterns. -/
theorem pidConfigurationRegisters : Obligations.PidConfigurationRegisters := by
  intro a
  refine ⟨readRule_pid a 0#3 _ rfl fun _ => rfl, readRule_pid a 1#3 _ rfl fun _ => rfl,
    readRule_pid a 2#3 _ rfl fun _ => rfl, readRule_pid a 3#3 _ rfl fun _ => rfl, readRule_pid a 4#3 _ rfl fun _ => rfl,
    writeRule_pid a 0#3 (fun v x => { x with p := v }) (fun _ => rfl) fun _ _ => rfl,
    writeRule_pid a 1#3 (fun v x => { x with i := v }) (fun _ => rfl) fun _ _ => rfl,
    writeRule_pid a 2#3 (fun v x => { x with d := v }) (fun _ => rfl) fun _ _ => rfl, ?_, ?_⟩
  · have haw := writeRule_pid a 3#3 (fun v x => { x with aw := awLegal v }) (fun _ => rfl) fun _ _ => rfl
    simp only [awLegal_eq] at haw
    exact haw
  · have hmaxout := writeRule_pid a 4#3 (fun v x => { x with maxout := maxoutLegal v }) (fun _ => rfl) fun _ _ => rfl
    simp only [maxoutLegal_eq] at hmaxout
    exact hmaxout

/-- Settles O47: the rules of the words 5 and 6 of an axis block, over all events what a step can make of an axis, and the values
an update leaves. -/
theorem pidStateRegisters : Obligations.PidStateRegisters := by
  intro a
  obtain ⟨-, -, -, -, -, -, -, -, -, -, hlasterr, hintegral, -⟩ := readOnlyRegistersIgnoreWrites
  refine ⟨readRule_pid a 5#3 _ rfl fun _ => rfl, readRule_pid a 6#3 _ rfl fun _ => rfl, hlasterr a, hintegral a,
    fun s t h => (step_axis h a).state_changed, fun s ha => ⟨_, exec_pidUpdate ha, ?_, ?_⟩⟩
  · rw [PidBank.get_set_same, axisAfter_lasterr]
  · rw [PidBank.get_set_same, axisAfter_integral]

/-- Settles O48: a register access finds no axis, a command's SEL names none, and no offset of the block is mapped. -/
theorem absentAxis : Obligations.AbsentAxis := by
  refine ⟨fun s a v habsent => ?_, fun s pins a r v rest habsent ha hr => ?_⟩
  · have hread : ∀ reg, answer (pidRead a reg s) s = .next { s with reply := .data 0#32 } := fun reg => by
      rw [pidRead_absent habsent]
      rfl
    have hwrite : ∀ upd, acknowledge (pidWrite a upd s) = .next { s with reply := .ok } := fun upd => by
      rw [pidWrite_absent habsent]
      rfl
    simp only [List.forall_mem_cons, List.not_mem_nil, false_implies, implies_true, and_true]
    exact ⟨⟨hread _, hread _, hread _, hread _, hread _, hread _, hread _⟩,
      ⟨hwrite _, hwrite _, hwrite _, hwrite _, hwrite _, rfl, rfl⟩,
      exec_pidUpdate_badSel habsent, exec_pidReset_badSel habsent⟩
  · have hoff := axisOffset_toNat ha hr
    rw [← hoff]
    refine unmappedOffsetsReadZero s pins (axisOffset a r) v rest (by omega) ?_
    rw [hoff]
    exact not_mapped_of_absentAxis habsent hr

end Sys2Proof.Machine
end

section
/-! SUPPORT. The abnormal outcomes of R220, as the statements need them: what the instruction of a command word or of an access leaves
of the frame, by the form of its word, and a wheel sampled at a diagonal transition. -/

namespace Sys2Proof.Machine

/-! ## The frame of an instruction (R22, R66, R220) -/

/-- The outcome is a next state with the parameters and the events of s. -/
def CompletesInFrame (s : State) (o : Host.Outcome State Fault Refusal) : Prop :=
  ∃ t, o = .next t ∧ t.params = s.params ∧ t.events = s.events

/-- A CMD write, failing or not, changes the units and the port alone (R110). -/
theorem dispatchCommand_frame (c : Word) (s : State) :
    (dispatchCommand c s).params = s.params ∧ (dispatchCommand c s).events = s.events := by
  rcases dispatchCommand_cases c s with ⟨e, h⟩ | ⟨-, h⟩ | ⟨w, -, h⟩ | ⟨-, h⟩ | ⟨-, h⟩ | ⟨-, h⟩ | ⟨-, h⟩ |
    ⟨a, -, -, h⟩ | ⟨a, -, -, h⟩ <;> rw [h]
  exacts [⟨rfl, rfl⟩, ⟨rfl, rfl⟩, ⟨rfl, rfl⟩, ⟨rfl, rfl⟩, ⟨rfl, rfl⟩, ⟨tachTick_params s, tachTick_events s⟩,
    ⟨rfl, rfl⟩, ⟨rfl, rfl⟩, ⟨rfl, rfl⟩]

theorem exec_wrCmd_completes (c : Word) (s : State) : CompletesInFrame s (exec (.wrCmd c) s) :=
  ⟨_, exec_wrCmd c s, dispatchCommand_frame c s⟩

theorem readAt_completes (off : Offset) (s : State) : CompletesInFrame s (readAt off s) := by
  obtain ⟨v, hv⟩ := readAt_eq off s
  exact ⟨_, hv, rfl, rfl⟩

theorem writeAt_completes (off : Offset) (v : Word) (s : State) : CompletesInFrame s (writeAt off v s) := by
  obtain ⟨u, hu, h⟩ := writeAt_cases off v s
  refine ⟨_, hu, ?_⟩
  rcases h with rfl | ⟨-, rfl⟩ | ⟨-, rfl⟩ | ⟨-, rfl⟩ | ⟨-, rfl⟩ | ⟨-, rfl⟩ | ⟨w, -, rfl⟩ | ⟨a, -, r, x, -, -, rfl, -⟩
  exacts [⟨rfl, rfl⟩, dispatchCommand_frame v s, ⟨rfl, rfl⟩, ⟨rfl, rfl⟩, ⟨rfl, rfl⟩, ⟨rfl, rfl⟩, ⟨rfl, rfl⟩, ⟨rfl, rfl⟩]

/-! ## A diagonal transition (R130, R223) -/

/-- Both channels changed at once: nothing is counted. -/
theorem grayCount_diagonal (sign : QdSign) (p : BitVec 2) : grayCount sign p (~~~p) = none := by
  cases sign <;> revert p <;> decide

section Diagonal

variable {s : State} {w : Wheel} (h : channelNow s w = ~~~(s.qd.get w).prev)
include h

theorem grayCount_of_diagonal : grayCount s.params.qdSign (s.qd.get w).prev (channelNow s w) = none := by
  rw [h, grayCount_diagonal]

/-- A SignalError at one wheel: PREV, ERRCNT and LAST take it, POS is kept (R223). -/
theorem sampledAt_of_diagonal : sampledAt s w =
    { s.qd.get w with prev := channelNow s w, errcnt := errcntNext (s.qd.get w).errcnt, last := .error } := by
  rw [sampledAt, wheelAfter, grayCount_of_diagonal h, errcntNext_eq]

/-- The same in the words of the statement: the count goes up to 2^32 − 1 and stays there. -/
theorem signalError_absorbed {q : QdWheel} (hq : q = sampledAt s w) :
    q.errcnt.toNat = min ((s.qd.get w).errcnt.toNat + 1) (2 ^ 32 - 1) ∧ q.prev = channelNow s w ∧
      q.pos = (s.qd.get w).pos ∧ q.last = .error := by
  rw [hq, sampledAt_of_diagonal h]
  exact ⟨errcntNext_toNat _, rfl, rfl, rfl⟩

end Diagonal

end Sys2Proof.Machine
end

section
/-! PROOFS. The statements about the abnormal outcomes: no instruction stops the block, and a SignalError is absorbed
(60_exceptions.md). -/

namespace Sys2Proof.Machine

/-- Settles O8, by the form of the instruction's word: a command runs as a CMD write of its word, a register access as the read or the
write at its offset. -/
theorem everyInstructionCompletes : Obligations.EveryInstructionCompletes := by
  intro i s
  show CompletesInFrame s (exec i s)
  have hdecode := decodeInvertsEncode i
  cases hword : encode i with rw [hword] at hdecode
  | cmd c => exact exec_of_decode_cmd hdecode s ▸ exec_wrCmd_completes c s
  | mmioRead off => exact readAt_of_decode hdecode s ▸ readAt_completes off s
  | mmioWrite off v => exact writeAt_of_decode hdecode s ▸ writeAt_completes off v s

/-- Settles O27: each source stores the wheel as sampled at its pins, which the Strobe shares with s, and RES0 of a QD_SAMPLE is the
result of no count. -/
theorem signalErrorAbsorbed : Obligations.SignalErrorAbsorbed := by
  intro s w h
  refine ⟨⟨_, exec_qdSample w s, ?_⟩, ⟨_, exec_qdSampleAll s, ?_⟩, fun rest => ?_⟩
  · obtain ⟨herrcnt, hprev, hpos, hlast⟩ := signalError_absorbed h (PerWheel.get_set_same s.qd w (sampledAt s w))
    exact ⟨herrcnt, hprev, hpos, hlast, congrArg res0Of (grayCount_of_diagonal h), rfl, rfl⟩
  · obtain ⟨herrcnt, hprev, hpos, hlast⟩ := signalError_absorbed h (bothSampled_get s w)
    exact ⟨herrcnt, hprev, hpos, hlast, rfl, rfl, rfl⟩
  · have hstrobe : channelNow { s with events := .strobe (pinsPresent s) :: rest } w = ~~~(s.qd.get w).prev := h
    obtain ⟨-, hstep⟩ := strobeSamplesBothWheels { s with events := .strobe (pinsPresent s) :: rest } _ rest rfl
    obtain ⟨herrcnt, hprev, hpos, hlast⟩ := signalError_absorbed hstrobe (bothSampled_get _ w)
    exact ⟨_, hstep, herrcnt, hprev, hpos, hlast, rfl⟩

end Sys2Proof.Machine
end

section
/-! SUPPORT. The state record after a Reset, read wheel by wheel, slot by slot and axis by axis, and the sample of a wheel whose
pins stand where PREV holds them (70_reset_and_hazards.md). -/

namespace Sys2Proof.Machine

/-! ## Every element at its reset value (R42, R250) -/

/-- The channel state the machine takes from given pins is the one the statements read (R132). -/
theorem pinsOf_eq_channelOf (pins : Pins) (w : Wheel) : pinsOf pins w = channelOf (pins.get w) :=
  (channelNow_eq_pinsAt { State.reset with events := [.reset pins] } w).symm

theorem resetWith_qd_get (pins : Pins) (s : State) (w : Wheel) :
    (resetWith pins s).qd.get w = QdWheel.reset (channelOf (pins.get w)) := by
  rw [← pinsOf_eq_channelOf]
  cases w <;> rfl

theorem Tach.reset_speed_get (w : Wheel) : Tach.reset.speed.get w = 0#32 := by
  cases w <;> rfl

theorem Tach.reset_hist_get (w : Wheel) (k : Fin 17) : (Tach.reset.hist.get w)[k] = 0#32 := by
  cases w <;> exact Vector.getElem_replicate k.isLt

theorem PidBank.reset_get (a : Axis) : PidBank.reset.get a = PidAxis.reset := by
  cases a <;> rfl

/-! ## A wheel at rest (R130, R251) -/

/-- Identical channel states count 0. -/
theorem grayCount_self (sign : QdSign) (p : BitVec 2) : grayCount sign p p = some 0 := if_pos rfl

section AtRest

variable {s : State} {w : Wheel} (h : channelNow s w = (s.qd.get w).prev)
include h

theorem grayCount_of_rest : grayCount s.params.qdSign (s.qd.get w).prev (channelNow s w) = some 0 := by
  rw [h, grayCount_self]

/-- A sample of a wheel at rest records the result 0 and changes nothing else of the wheel. -/
theorem sampledAt_of_rest : sampledAt s w = { s.qd.get w with last := .zero } := by
  rw [sampledAt, wheelAfter_of_some (grayCount_of_rest h), h]
  simp [resultOf]

end AtRest

/-- A step that goes on to a QD_SAMPLE of a wheel at rest: the sample answers 0 in RES0 and counts nothing (R134). -/
theorem run_two_qdSample_of_rest {s t : State} {pins : Pins} {w : Wheel} {rest : List Event} (h : step s = .next t)
    (he : t.events = .hostWrite pins (t.params.qtpBase + 0x008) 4 (BitVec.ofNat 32 (0x001 + 256 * wheelNumber w)) :: rest)
    (hpins : channelOf (pins.get w) = (t.qd.get w).prev) :
    ∃ u, Host.Core.run core 2 s = .next u ∧ u.port.res0 = 0#32 ∧ u.qd.get w = { t.qd.get w with last := .zero } ∧
      u.events = rest := by
  have hrest : channelNow t w = (t.qd.get w).prev := by
    rw [← hpins, channelNow, pinsPresent, he]
  obtain ⟨hdecode, hexec, -⟩ := qdSampleOneWheel
  obtain ⟨-, -, hcommand⟩ := stepRunsDecodedInstruction t pins rest 0x008#12 (.qdSample (BitVec.ofNat 3 (wheelNumber w)))
    (BitVec.ofNat 32 (0x001 + 256 * wheelNumber w))
  obtain ⟨u, hu, hstep⟩ := hcommand he (hdecode w)
  rw [hexec, grayCount_of_rest hrest, sampledAt_of_rest hrest] at hu
  cases hu
  exact ⟨_, run_two h hstep, rfl, PerWheel.get_set_same .., rfl⟩

end Sys2Proof.Machine
end

section
/-! PROOFS. The statements about the Reset event and the first sample after it (70_reset_and_hazards.md). -/

namespace Sys2Proof.Machine

/-- Settles O16: the step on a Reset leaves the reset values of each unit, whatever the state was. -/
theorem resetEventResetsEverything : Obligations.ResetEventResetsEverything := by
  intro s pins rest he
  exact ⟨_, step_reset he, rfl, rfl, resetWith_qd_get pins s, Tach.reset_speed_get, Tach.reset_hist_get, rfl, rfl, rfl, rfl,
    PidBank.reset_get, rfl⟩

/-- Settles O17: PREV after the Reset is what the sample finds at the same pins, so the wheel is at rest, and its other fields
are those of the Reset. -/
theorem restingWheelCountsNothing : Obligations.RestingWheelCountsNothing := by
  intro s pins rest w he
  have hwheel := resetWith_qd_get pins s w
  obtain ⟨u, hrun, hres0, hu, hevents⟩ := run_two_qdSample_of_rest (step_reset he) rfl (congrArg QdWheel.prev hwheel).symm
  rw [hwheel] at hu
  exact ⟨u, hrun, hres0, congrArg QdWheel.pos hu, congrArg QdWheel.errcnt hu, congrArg QdWheel.last hu, hevents⟩

end Sys2Proof.Machine
end
